-- ==== Sys2Proof/Word.lean ====
section
/-! DEFINITION. The two word types of the hardware (00_scope.md R6, R7): everything is unsigned. -/

namespace Sys2Proof

/-- An 8-bit unsigned value: a V register, a timer, a memory byte. -/
abbrev Byte := BitVec 8

/-- A 16-bit unsigned value: `pc`, `I`, a stack slot, an instruction word. -/
abbrev Word := BitVec 16

/-- The 4-bit index of a V register: every value names one (10_state.md R11). -/
abbrev RegId := BitVec 4

end Sys2Proof
end

