-- ==== Sys2Proof/Machine/Flags.lean ====
section
/-! DEFINITION. Every flag computation of the spec: what VF receives (10_state.md R12, 42_load_and_alu.md R142). Each is a function of the
operands as they were before the instruction (40_step_cycle.md R97). -/

namespace Sys2Proof.Machine

/-- A flag as VF holds it: 1 or 0. -/
def flagByte (b : Bool) : Byte := if b then 1#8 else 0#8

/-- 8XY4: the sum exceeds 255 (R136). -/
def carryOut (a b : Byte) : Bool := decide (a.toNat + b.toNat > 255)

/-- 8XY5 and 8XY7: no borrow in `a - b` (R137, R139). -/
def notBorrow (a b : Byte) : Bool := decide (a.toNat ≥ b.toNat)

/-- 8XY6: the bit a right shift moves out (R138). -/
def shiftedOutRight (a : Byte) : Bool := a.getLsbD 0

/-- 8XYE: the bit a left shift moves out (R140). -/
def shiftedOutLeft (a : Byte) : Bool := a.getLsbD 7

/-- FX1E: the sum lies outside the memory (43_index_and_memory.md R151; log 16). -/
def outsideMemory (memSize sum : Nat) : Bool := decide (sum ≥ memSize)

end Sys2Proof.Machine
end

