-- ==== Sys2Proof/Syntax.lean ====
section
/-! DEFINITION. The instructions: one constructor per row of the opcode table (30_encoding.md R74), in the table's order. -/

namespace Sys2Proof

/-- An instruction with its operand fields (30_encoding.md R71). A register field is any of the 16 values. -/
inductive Instr where
  /-- 00E0, clear the screen. -/
  | cls
  /-- 00EE, return, or halt at depth 0. -/
  | ret
  /-- 1NNN, jump. -/
  | jp (nnn : BitVec 12)
  /-- 2NNN, call. -/
  | call (nnn : BitVec 12)
  /-- 3XNN, skip if V[X] = NN. -/
  | seImm (x : RegId) (nn : Byte)
  /-- 4XNN, skip if V[X] ≠ NN. -/
  | sneImm (x : RegId) (nn : Byte)
  /-- 5XY0, skip if V[X] = V[Y]. -/
  | seReg (x y : RegId)
  /-- 6XNN, load immediate. -/
  | ldImm (x : RegId) (nn : Byte)
  /-- 7XNN, add immediate. -/
  | addImm (x : RegId) (nn : Byte)
  /-- 8XY0, copy. -/
  | ldReg (x y : RegId)
  /-- 8XY1, bitwise or. -/
  | orReg (x y : RegId)
  /-- 8XY2, bitwise and. -/
  | andReg (x y : RegId)
  /-- 8XY3, bitwise exclusive or. -/
  | xorReg (x y : RegId)
  /-- 8XY4, add with carry out. -/
  | addReg (x y : RegId)
  /-- 8XY5, V[X] - V[Y]. -/
  | subReg (x y : RegId)
  /-- 8XY6, shift right by one; Y is encoded and ignored (42_load_and_alu.md R138). -/
  | shr (x y : RegId)
  /-- 8XY7, V[Y] - V[X]. -/
  | subnReg (x y : RegId)
  /-- 8XYE, shift left by one; Y is encoded and ignored (R140). -/
  | shl (x y : RegId)
  /-- 9XY0, skip if V[X] ≠ V[Y]. -/
  | sneReg (x y : RegId)
  /-- ANNN, load I. -/
  | ldI (nnn : BitVec 12)
  /-- BNNN, jump to NNN + V0. -/
  | jpV0 (nnn : BitVec 12)
  /-- CXNN, random byte and NN. -/
  | rnd (x : RegId) (nn : Byte)
  /-- DXYN, draw an N-row sprite. -/
  | drw (x y : RegId) (n : BitVec 4)
  /-- EX9E, skip if key V[X] is pressed. -/
  | skp (x : RegId)
  /-- EXA1, skip if key V[X] is not pressed. -/
  | sknp (x : RegId)
  /-- FX07, read the delay timer. -/
  | ldVxDt (x : RegId)
  /-- FX0A, wait for a key. -/
  | ldVxK (x : RegId)
  /-- FX15, set the delay timer. -/
  | ldDtVx (x : RegId)
  /-- FX18, set the sound timer. -/
  | ldStVx (x : RegId)
  /-- FX1E, add V[X] to I. -/
  | addI (x : RegId)
  /-- FX29, point I at a glyph. -/
  | ldFont (x : RegId)
  /-- FX33, store three decimal digits. -/
  | ldBcd (x : RegId)
  /-- FX55, store V0 to V[X]. -/
  | storeRegs (x : RegId)
  /-- FX65, load V0 to V[X]. -/
  | loadRegs (x : RegId)
  /-- NOP.reserved: a word that matches none of the 34 patterns (R75), kept so that no bit is lost (log 25). -/
  | nopReserved (w : Word)
  deriving DecidableEq, Repr

/-- Why a list of bytes holds no instruction. Words themselves are never rejected (30_encoding.md R73). -/
inductive DecodeError where
  /-- Fewer than the two bytes of an instruction word (30_encoding.md R70). -/
  | truncated
  deriving DecidableEq, Repr

end Sys2Proof
end

