-- ==== Sys2Proof/WellFormed.lean ====
section
/-! DEFINITION. Well-formed instructions. The field types admit exactly the operand values the encoding admits (30_encoding.md R71), so the
one check left is that a reserved word is one: it matches none of the 34 rows of the opcode table. -/

namespace Sys2Proof

/-- The 34 rows of 30_encoding.md R74, as (mask, match) pairs in the table's order. -/
def opcodePatterns : List (Word × Word) :=
  [(0xFFFF, 0x00E0), (0xFFFF, 0x00EE), (0xF000, 0x1000), (0xF000, 0x2000), (0xF000, 0x3000), (0xF000, 0x4000),
   (0xF00F, 0x5000), (0xF000, 0x6000), (0xF000, 0x7000)] ++
  [(0xF00F, 0x8000), (0xF00F, 0x8001), (0xF00F, 0x8002), (0xF00F, 0x8003), (0xF00F, 0x8004), (0xF00F, 0x8005),
   (0xF00F, 0x8006), (0xF00F, 0x8007), (0xF00F, 0x800E), (0xF00F, 0x9000)] ++
  [(0xF000, 0xA000), (0xF000, 0xB000), (0xF000, 0xC000), (0xF000, 0xD000), (0xF0FF, 0xE09E), (0xF0FF, 0xE0A1)] ++
  [(0xF0FF, 0xF007), (0xF0FF, 0xF00A), (0xF0FF, 0xF015), (0xF0FF, 0xF018), (0xF0FF, 0xF01E), (0xF0FF, 0xF029),
   (0xF0FF, 0xF033), (0xF0FF, 0xF055), (0xF0FF, 0xF065)]

/-- A word of the reserved spaces of 30_encoding.md R75: no row matches it. -/
def isReservedWord (w : Word) : Bool := opcodePatterns.all fun p => w &&& p.1 != p.2

/-- The instruction is one that some word encodes. -/
def Instr.wellFormed : Instr → Bool
  | .nopReserved w => isReservedWord w
  | .cls | .ret | .jp _ | .call _ | .seImm _ _ | .sneImm _ _ | .seReg _ _ | .ldImm _ _ | .addImm _ _ => true
  | .ldReg _ _ | .orReg _ _ | .andReg _ _ | .xorReg _ _ | .addReg _ _ | .subReg _ _ | .shr _ _ | .subnReg _ _ | .shl _ _ => true
  | .sneReg _ _ | .ldI _ | .jpV0 _ | .rnd _ _ | .drw _ _ _ | .skp _ | .sknp _ => true
  | .ldVxDt _ | .ldVxK _ | .ldDtVx _ | .ldStVx _ | .addI _ | .ldFont _ | .ldBcd _ | .storeRegs _ | .loadRegs _ => true

end Sys2Proof
end

