-- ==== Sys2Proof/Decode.lean ====
section
/-! DEFINITION. The decoder (30_encoding.md R73), the encoder (R74), and their byte forms (20_memory.md R46: the high byte first). -/

namespace Sys2Proof

/-! ### Fields (30_encoding.md R71) -/

/-- `op[15:12]`. -/
def opMajor (op : Word) : BitVec 4 := op.extractLsb' 12 4

/-- `op[11:8]`. -/
def opX (op : Word) : RegId := op.extractLsb' 8 4

/-- `op[7:4]`. -/
def opY (op : Word) : RegId := op.extractLsb' 4 4

/-- `op[3:0]`. -/
def opN (op : Word) : BitVec 4 := op.extractLsb' 0 4

/-- `op[7:0]`. -/
def opNN (op : Word) : Byte := op.extractLsb' 0 8

/-- `op[11:0]`. -/
def opNNN (op : Word) : BitVec 12 := op.extractLsb' 0 12

/-! ### Decode -/

/-- Major 0: the whole word must match. -/
def decodeMajor0 (op : Word) : Instr :=
  if op = 0x00E0#16 then .cls else if op = 0x00EE#16 then .ret else .nopReserved op

/-- Majors 5 and 9: the low nibble must be 0. -/
def decodeIfMinor0 (op : Word) (i : Instr) : Instr := if opN op = 0#4 then i else .nopReserved op

/-- Major 8: the low nibble selects. -/
def decodeMajor8 (op : Word) : Instr :=
  match (opN op).toNat with
  | 0x0 => .ldReg (opX op) (opY op)
  | 0x1 => .orReg (opX op) (opY op)
  | 0x2 => .andReg (opX op) (opY op)
  | 0x3 => .xorReg (opX op) (opY op)
  | 0x4 => .addReg (opX op) (opY op)
  | 0x5 => .subReg (opX op) (opY op)
  | 0x6 => .shr (opX op) (opY op)
  | 0x7 => .subnReg (opX op) (opY op)
  | 0xE => .shl (opX op) (opY op)
  | _ => .nopReserved op

/-- Major E: the low byte selects. -/
def decodeMajorE (op : Word) : Instr :=
  if opNN op = 0x9E#8 then .skp (opX op) else if opNN op = 0xA1#8 then .sknp (opX op) else .nopReserved op

/-- Major F: the low byte selects. -/
def decodeMajorF (op : Word) : Instr :=
  match (opNN op).toNat with
  | 0x07 => .ldVxDt (opX op)
  | 0x0A => .ldVxK (opX op)
  | 0x15 => .ldDtVx (opX op)
  | 0x18 => .ldStVx (opX op)
  | 0x1E => .addI (opX op)
  | 0x29 => .ldFont (opX op)
  | 0x33 => .ldBcd (opX op)
  | 0x55 => .storeRegs (opX op)
  | 0x65 => .loadRegs (opX op)
  | _ => .nopReserved op

/-- Decoding is total on the 65536 words (30_encoding.md R73): it never fails and never faults. -/
def decode (op : Word) : Instr :=
  match (opMajor op).toNat with
  | 0x0 => decodeMajor0 op
  | 0x1 => .jp (opNNN op)
  | 0x2 => .call (opNNN op)
  | 0x3 => .seImm (opX op) (opNN op)
  | 0x4 => .sneImm (opX op) (opNN op)
  | 0x5 => decodeIfMinor0 op (.seReg (opX op) (opY op))
  | 0x6 => .ldImm (opX op) (opNN op)
  | 0x7 => .addImm (opX op) (opNN op)
  | 0x8 => decodeMajor8 op
  | 0x9 => decodeIfMinor0 op (.sneReg (opX op) (opY op))
  | 0xA => .ldI (opNNN op)
  | 0xB => .jpV0 (opNNN op)
  | 0xC => .rnd (opX op) (opNN op)
  | 0xD => .drw (opX op) (opY op) (opN op)
  | 0xE => decodeMajorE op
  | _ => decodeMajorF op

/-! ### Bytes -/

/-- The instruction word of two bytes: the one at the lower address is the high byte (20_memory.md R45, R46). -/
def joinBytes (hi lo : Byte) : Word := hi ++ lo

/-- The byte of a word that lies at the lower address. -/
def highByte (w : Word) : Byte := w.extractLsb' 8 8

/-- The byte of a word that lies at the higher address. -/
def lowByte (w : Word) : Byte := w.extractLsb' 0 8

/-- Decoding from bytes: one instruction and the bytes after it. -/
def decodeBytes : List Byte → Except DecodeError (Instr × List Byte)
  | hi :: lo :: rest => .ok (decode (joinBytes hi lo), rest)
  | [_] => .error .truncated
  | [] => .error .truncated

/-! ### Encode -/

/-- Format NNN: major and a 12-bit address (30_encoding.md R70). -/
def encodeNNN (major : BitVec 4) (nnn : BitVec 12) : Word := major ++ nnn

/-- Formats XNN and X: major, X and a low byte (an immediate, or a minor code). -/
def encodeXNN (major : BitVec 4) (x : RegId) (nn : Byte) : Word := major ++ x ++ nn

/-- Formats XY and XYN: major, X, Y and a low nibble (a minor code, or a row count). -/
def encodeXYN (major : BitVec 4) (x y : RegId) (n : BitVec 4) : Word := major ++ x ++ y ++ n

/-- The word of an instruction, by the rows of 30_encoding.md R74. -/
def encode : Instr → Word
  | .cls => 0x00E0#16
  | .ret => 0x00EE#16
  | .jp nnn => encodeNNN 0x1#4 nnn
  | .call nnn => encodeNNN 0x2#4 nnn
  | .seImm x nn => encodeXNN 0x3#4 x nn
  | .sneImm x nn => encodeXNN 0x4#4 x nn
  | .seReg x y => encodeXYN 0x5#4 x y 0x0#4
  | .ldImm x nn => encodeXNN 0x6#4 x nn
  | .addImm x nn => encodeXNN 0x7#4 x nn
  | .ldReg x y => encodeXYN 0x8#4 x y 0x0#4
  | .orReg x y => encodeXYN 0x8#4 x y 0x1#4
  | .andReg x y => encodeXYN 0x8#4 x y 0x2#4
  | .xorReg x y => encodeXYN 0x8#4 x y 0x3#4
  | .addReg x y => encodeXYN 0x8#4 x y 0x4#4
  | .subReg x y => encodeXYN 0x8#4 x y 0x5#4
  | .shr x y => encodeXYN 0x8#4 x y 0x6#4
  | .subnReg x y => encodeXYN 0x8#4 x y 0x7#4
  | .shl x y => encodeXYN 0x8#4 x y 0xE#4
  | .sneReg x y => encodeXYN 0x9#4 x y 0x0#4
  | .ldI nnn => encodeNNN 0xA#4 nnn
  | .jpV0 nnn => encodeNNN 0xB#4 nnn
  | .rnd x nn => encodeXNN 0xC#4 x nn
  | .drw x y n => encodeXYN 0xD#4 x y n
  | .skp x => encodeXNN 0xE#4 x 0x9E#8
  | .sknp x => encodeXNN 0xE#4 x 0xA1#8
  | .ldVxDt x => encodeXNN 0xF#4 x 0x07#8
  | .ldVxK x => encodeXNN 0xF#4 x 0x0A#8
  | .ldDtVx x => encodeXNN 0xF#4 x 0x15#8
  | .ldStVx x => encodeXNN 0xF#4 x 0x18#8
  | .addI x => encodeXNN 0xF#4 x 0x1E#8
  | .ldFont x => encodeXNN 0xF#4 x 0x29#8
  | .ldBcd x => encodeXNN 0xF#4 x 0x33#8
  | .storeRegs x => encodeXNN 0xF#4 x 0x55#8
  | .loadRegs x => encodeXNN 0xF#4 x 0x65#8
  | .nopReserved w => w

/-- The two bytes of an instruction, in the order they lie in memory. -/
def encodeBytes (i : Instr) : List Byte := [highByte (encode i), lowByte (encode i)]

/-- The word whose bits, numbered as the opcode table numbers them, are the low `nbits` bits of `w`; the bits above are 0. -/
def tableWord (nbits w : Nat) : Word := BitVec.ofNat 16 (w % 2 ^ nbits)

/-- What the decoder reads from a row's bits: the word laid out as the hardware stores it, high byte at the lower address. -/
def decodeTableWord (nbits w : Nat) : Option Instr :=
  match decodeBytes [highByte (tableWord nbits w), lowByte (tableWord nbits w)] with
  | .ok (i, _) => some i
  | .error _ => none

end Sys2Proof
end

