-- ==== Sys2Proof/Config.lean ====
section
/-! DEFINITION. What construction fixes (00_scope.md R2, R4, R5) and the one free value of the spec: the random byte. -/

namespace Sys2Proof

/-- The parameters of one constructed VM. No step changes them. -/
structure Config where
  /-- `MEM_SIZE` (R2). -/
  memSize : Nat
  /-- `TICK_ON_STEP` (R4). -/
  tickOnStep : Bool
  /-- `FONT`, exactly 80 bytes by its type (R5, 70_reset_and_hazards.md R251). -/
  font : Vector Byte 80
  deriving DecidableEq, Repr

/-- The sizes that construction accepts (R2). The upper bound is the spec's own decision D1 (log 2). -/
abbrev Config.Legal (c : Config) : Prop := 865 ≤ c.memSize ∧ c.memSize ≤ 65536

/-- The random byte of the `n`-th step whose arguments are not in `State.inputs`: a free value, nothing constrains it
(42_load_and_alu.md R141, 93_implementation_defined.md U2; log 5). -/
opaque Config.freeRand : Nat → Byte

end Sys2Proof
end

