-- ==== Sys2Proof/Machine/Font.lean ====
section
/-! DEFINITION. The default value of the parameter `FONT` (00_scope.md R5, a table the spec marks as general knowledge; log 3). -/

namespace Sys2Proof.Machine

/-- Sixteen glyphs of five bytes, glyph `d` at offset `5 d`. -/
def defaultFont : Vector Byte 80 :=
  (#v[0xF0, 0x90, 0x90, 0x90, 0xF0, 0x20, 0x60, 0x20, 0x20, 0x70, 0xF0, 0x10, 0xF0, 0x80, 0xF0, 0xF0, 0x10, 0xF0, 0x10, 0xF0] : Vector Byte 20) ++
  (#v[0x90, 0x90, 0xF0, 0x10, 0x10, 0xF0, 0x80, 0xF0, 0x10, 0xF0, 0xF0, 0x80, 0xF0, 0x90, 0xF0, 0xF0, 0x10, 0x20, 0x40, 0x40] : Vector Byte 20) ++
  (#v[0xF0, 0x90, 0xF0, 0x90, 0xF0, 0xF0, 0x90, 0xF0, 0x10, 0xF0, 0xF0, 0x90, 0xF0, 0x90, 0x90, 0xE0, 0x90, 0xE0, 0x90, 0xE0] : Vector Byte 20) ++
  (#v[0xF0, 0x80, 0x80, 0x80, 0xF0, 0xE0, 0x90, 0x90, 0x90, 0xE0, 0xF0, 0x80, 0xF0, 0x80, 0xF0, 0xF0, 0x80, 0xF0, 0x80, 0x80] : Vector Byte 20)

end Sys2Proof.Machine
end

