-- ==== Sys2Proof/Machine/Layout.lean ====
section
/-! DEFINITION. The memory map, computed from `MEM_SIZE` (00_scope.md R3, 20_memory.md R41). -/

namespace Sys2Proof

/-- `FONT_END`. -/
def fontEnd : Nat := 80

/-- `PROGRAM_START`. -/
def programStart : Nat := 512

/-- `DISPLAY_WIDTH`, in pixels. -/
def displayWidth : Nat := 64

/-- `DISPLAY_HEIGHT`, in pixels. -/
def displayHeight : Nat := 32

/-- `ROW_BYTES`. -/
def rowBytes : Nat := 8

/-- `DISPLAY_BYTES`. -/
def displayBytes : Nat := 256

/-- The size of RESERVED (20_memory.md R41). -/
def reservedBytes : Nat := 96

/-- `GLYPH_BYTES`. -/
def glyphBytes : Nat := 5

/-- `DISPLAY_START`, also the end of the reserved region. -/
def Config.displayStart (c : Config) : Nat := c.memSize - displayBytes

/-- `STACK_REGION_START`, the end of the program region. -/
def Config.reservedStart (c : Config) : Nat := c.displayStart - reservedBytes

/-- `MAX_ROM_LEN`. -/
def Config.maxRomLen (c : Config) : Nat := c.reservedStart - programStart

/-- The address lies in RESERVED. -/
def Config.inReserved (c : Config) (a : Nat) : Bool := decide (c.reservedStart ≤ a ∧ a < c.displayStart)

/-- The address lies in DISPLAY. -/
def Config.inDisplay (c : Config) (a : Nat) : Bool := decide (c.displayStart ≤ a ∧ a < c.memSize)

end Sys2Proof
end

