-- ==== Sys2Proof/Machine/State.lean ====
section
/-! DEFINITION. The state of the VM (10_state.md R10), the state after reset (R22 to R25), and the ways a step can end. -/

namespace Sys2Proof.Machine

/-- The reasons a VM can be `Faulted` for (60_exceptions.md R211). They are values of `status`: a VM fault is a next state of the
model (log 7). -/
inductive FaultReason where
  /-- 1: 2NNN at depth 12 (R212). -/
  | stackOverflow
  /-- 2: raised by nothing (R213; log 28). -/
  | stackUnderflow
  /-- 3: an address at or past `MEM_SIZE`; fetch, DXYN, FX33, FX55, FX65 (R214). -/
  | outOfBounds
  /-- 4: FX1E with a sum that does not fit 16 bits (R215). -/
  | addressOverflow
  /-- 5: an address in RESERVED; fetch, DXYN, FX33, FX55, FX65 (R216). -/
  | reservedAccess
  /-- 6: a store into FONT; FX33, FX55 (R217). -/
  | protectedWrite
  /-- 7: a fetch at an odd `pc` (R218). -/
  | misalignedFetch
  deriving DecidableEq, Repr

/-- `status` (10_state.md R18). -/
inductive Status where
  | running
  | halted
  | faulted (reason : FaultReason)
  deriving DecidableEq, Repr

/-- What `step` returns to the host (40_step_cycle.md R90, 60_exceptions.md R234). -/
inductive StepResult where
  /-- `Continue`. -/
  | cont
  /-- `Halted`. -/
  | halted
  /-- `AwaitingKey`. -/
  | awaitingKey
  /-- `Faulted(reason)`. -/
  | faulted (reason : FaultReason)
  deriving DecidableEq, Repr

/-- The key-state argument of a step: sixteen Booleans, or absent (45_timers_and_keys.md R196). -/
abbrev KeyState := Option (Vector Bool 16)

/-- The arguments of one `step(keys, rand)` call. -/
structure StepInput where
  keys : KeyState
  rand : Byte
  deriving DecidableEq, Repr

/-- Memory: the bytes that differ from what an unlisted address reads as, in one canonical form (`Memory.Wf`). -/
abbrev Memory := List Host.Cell

/-- Why `construct` gives no VM (70_reset_and_hazards.md R251). -/
inductive ConfigError where
  /-- `memory_size < 865`. -/
  | memoryTooSmall
  /-- `memory_size > 65536` (the spec's own bound, D1; log 2). -/
  | memoryTooLarge
  /-- The ROM does not fit the program region. -/
  | romTooLarge
  deriving DecidableEq, Repr

/-- The machine. The fields from `v` to `mem` are the tuple of 10_state.md R10; `cfg` is what construction fixed (R20; log 1);
`inputs`, `freeIndex` and `result` are the model's own record of the host's side of a step (logs 4, 5, 6). -/
structure State where
  /-- `V[0..15]` (R11, R12). -/
  v : Vector Byte 16
  /-- `I` (R13). -/
  i : Word
  /-- `pc` (R14). -/
  pc : Word
  /-- `stack[0..11]` (R15). -/
  stack : Vector Word 12
  /-- `sp`, the current depth 0..12 (R15). -/
  sp : Fin 13
  /-- The delay timer (R16). -/
  delay : Byte
  /-- The sound timer (R16). -/
  sound : Byte
  /-- `draw_flag` (R17). -/
  drawFlag : Bool
  /-- `status` (R18). -/
  status : Status
  /-- `M` (R19). -/
  mem : Memory
  /-- `MEM_SIZE`, `TICK_ON_STEP`, `FONT` (00_scope.md R2, R4, R5). -/
  cfg : Config
  /-- The arguments of the host's coming `step` calls, the next one first. When none is listed, a step is called with no key map and
  with a free random byte. -/
  inputs : List StepInput
  /-- Which free random byte the next step gets. -/
  freeIndex : Nat
  /-- What the last `step` call returned; none before the first. No instruction reads it. -/
  result : Option StepResult
  deriving DecidableEq, Repr

/-- Why the model itself could stop with no next state. There is no such reason: the spec leaves nothing stuck
(93_implementation_defined.md, end of Part 1), and its own faults are next states with `status = Faulted(reason)` (log 7). Nobody raises
one; safe. -/
inductive Fault
  deriving DecidableEq, Repr

/-- Why an instruction is given no meaning. -/
inductive Refusal where
  /-- Raised by `exec` alone, for an instruction whose meaning is not written. Safe. No arm raises it. -/
  | notModelled (mnemonic : String)
  deriving DecidableEq, Repr

/-- Right after `construct(4096, [])` with the default font and `TICK_ON_STEP = true` (10_state.md R22 to R25; log 2). -/
def State.reset : State where
  v := Vector.replicate 16 0#8
  i := 0#16
  pc := 512#16
  stack := Vector.replicate 12 0#16
  sp := 0
  delay := 60#8
  sound := 60#8
  drawFlag := false
  status := .running
  mem := []
  cfg := { memSize := 4096, tickOnStep := true, font := defaultFont }
  inputs := []
  freeIndex := 0
  result := none

end Sys2Proof.Machine
end

