-- ==== Sys2Proof/Machine/Ops.lean ====
section
/-! DEFINITION. The named operations on the state: memory, registers, stack, framebuffer, the four ends of an instruction
(40_step_cycle.md R94), the timer tick, and the step's bookkeeping. -/

namespace Sys2Proof.Machine

/-! ### Memory as a canonical list -/

/-- What an address that no cell lists reads as: the reset contents of 10_state.md R24 (font, then zeros; logs 8 and 9). -/
def unlistedByte (font : Vector Byte 80) (a : Nat) : Byte := font[a]?.getD 0#8

/-- The byte listed for an address. -/
def Memory.find (a : Nat) : Memory → Option Byte
  | [] => none
  | c :: m => if c.1 = a then some c.2 else Memory.find a m

/-- List a byte at its place in the rising order, in place of any byte listed there. -/
def Memory.put (a : Nat) (b : Byte) : Memory → Memory
  | [] => [(a, b)]
  | c :: m => if a < c.1 then (a, b) :: c :: m else if a = c.1 then (a, b) :: m else c :: Memory.put a b m

/-- List nothing for an address. -/
def Memory.drop (a : Nat) (m : Memory) : Memory := m.filter fun c => c.1 != a

/-- The canonical form: addresses strictly rising, and no cell equal to what its address reads as unlisted. -/
abbrev Memory.Wf (font : Vector Byte 80) (m : Memory) : Prop :=
  m.Pairwise (fun c d => c.1 < d.1) ∧ ∀ c ∈ m, c.2 ≠ unlistedByte font c.1

/-- `M[a]`, with no check (00_scope.md R7). -/
def State.byteAt (s : State) (a : Nat) : Byte := (Memory.find a s.mem).getD (unlistedByte s.cfg.font a)

/-- `M[a] <- b`, with no check. Keeps the canonical form. -/
def State.setByte (s : State) (a : Nat) (b : Byte) : State :=
  { s with mem := if b = unlistedByte s.cfg.font a then Memory.drop a s.mem else Memory.put a b s.mem }

/-- `M[a], M[a+1], … <- bytes`, with no check. -/
def State.setBytes (s : State) (a : Nat) : List Byte → State
  | [] => s
  | b :: bs => (s.setByte a b).setBytes (a + 1) bs

/-- `draw_flag <- d` (10_state.md R17). -/
def State.setDrawFlag (s : State) (d : Bool) : State := { s with drawFlag := d }

/-! ### Checked accesses (20_memory.md R42 to R45) -/

/-- Why a data read of an address fails, if it does, checked in the order of R43. -/
def readFault (c : Config) (a : Nat) : Option FaultReason :=
  if c.memSize ≤ a then some .outOfBounds
  else if c.inReserved a then some .reservedAccess
  else none

/-- Why a data write of an address fails, if it does, checked in the order of R44. -/
def writeFault (c : Config) (a : Nat) : Option FaultReason :=
  if c.memSize ≤ a then some .outOfBounds
  else if c.inReserved a then some .reservedAccess
  else if a < fontEnd then some .protectedWrite
  else none

/-- Why a fetch at an address fails, if it does, checked in the order of R45. -/
def fetchFault (c : Config) (pc : Nat) : Option FaultReason :=
  if c.memSize ≤ pc + 1 then some .outOfBounds
  else if c.inReserved pc || c.inReserved (pc + 1) then some .reservedAccess
  else if pc % 2 = 1 then some .misalignedFetch
  else none

/-- `MemRead(a, 1)` (R43). -/
def State.memRead (s : State) (a : Nat) : Except FaultReason Byte :=
  match readFault s.cfg a with
  | some r => .error r
  | none => .ok (s.byteAt a)

/-- `MemWrite(a, 1, b)` (R44): a write into DISPLAY sets `draw_flag`, whatever the byte (log 21). -/
def State.memWrite (s : State) (a : Nat) (b : Byte) : Except FaultReason State :=
  match writeFault s.cfg a with
  | some r => .error r
  | none => .ok ((s.setByte a b).setDrawFlag (s.drawFlag || decide (s.cfg.displayStart ≤ a)))

/-- The bytes at `a, a+1, …` (`n` of them), or the first failing address's reason (R57). -/
def State.readBlock (s : State) : Nat → Nat → Except FaultReason (List Byte)
  | _, 0 => .ok []
  | a, n + 1 =>
    match s.memRead a with
    | .error r => .error r
    | .ok b =>
      match s.readBlock (a + 1) n with
      | .error r => .error r
      | .ok bs => .ok (b :: bs)

/-- Store bytes at `a, a+1, …`, or the first failing address's reason. On an error the caller keeps its old state, so nothing is
written (R57, 40_step_cycle.md R99; log 12). -/
def State.writeBlock (s : State) (a : Nat) : List Byte → Except FaultReason State
  | [] => .ok s
  | b :: bs =>
    match s.memWrite a b with
    | .error r => .error r
    | .ok t => t.writeBlock (a + 1) bs

/-- `Fetch(pc)` (R45), big-endian (R46). It reads memory as it is now (R53). -/
def State.fetch (s : State) : Except FaultReason Word :=
  match fetchFault s.cfg s.pc.toNat with
  | some r => .error r
  | none => .ok (joinBytes (s.byteAt s.pc.toNat) (s.byteAt (s.pc.toNat + 1)))

/-! ### Registers and stack -/

/-- `V[x]` (10_state.md R11). -/
def State.getV (s : State) (x : RegId) : Byte := s.v[x.toNat]'x.isLt

/-- `V[x] <- b`. No register is hard-wired (R11). -/
def State.setV (s : State) (x : RegId) (b : Byte) : State := { s with v := s.v.set x.toNat b x.isLt }

/-- `I <- a`. -/
def State.setI (s : State) (a : Word) : State := { s with i := a }

/-- `pc <- a`. -/
def State.setPc (s : State) (a : Word) : State := { s with pc := a }

/-- The next instruction in order: `pc <- (pc + 2) mod 65536` (40_step_cycle.md R100). -/
def State.advance (s : State) : State := s.setPc (s.pc + 2#16)

/-- The end of a skip instruction: `pc + 4` where the condition holds, else `pc + 2`, modulo 65536 (R100). -/
def State.skipIf (s : State) (c : Bool) : State := s.setPc (if c then s.pc + 4#16 else s.pc + 2#16)

/-- Push a return address, unless the depth is 12 already (10_state.md R15). -/
def State.push (s : State) (a : Word) : Option State :=
  if h : s.sp.val < 12 then some { s with stack := s.stack.set s.sp.val a h, sp := ⟨s.sp.val + 1, by omega⟩ } else none

/-- Pop the top return address, unless the depth is 0 (R15). The slot keeps its value. -/
def State.pop (s : State) : Option (Word × State) :=
  if 0 < s.sp.val then
    some (s.stack[s.sp.val - 1]'(by omega), { s with sp := ⟨s.sp.val - 1, by omega⟩ })
  else none

/-- `delay <- b`. -/
def State.setDelay (s : State) (b : Byte) : State := { s with delay := b }

/-- `sound <- b`. -/
def State.setSound (s : State) (b : Byte) : State := { s with sound := b }

/-- The flag first and the result second (40_step_cycle.md R98; log 13): with `x` = 15 the result stays. -/
def State.setFlagThen (s : State) (flag : Byte) (x : RegId) (b : Byte) : State := (s.setV 0xF#4 flag).setV x b

/-! ### Framebuffer (20_memory.md R49, R50) -/

/-- `PixelAddr(col, row)`. -/
def pixelAddr (c : Config) (col row : Nat) : Nat := c.displayStart + row * rowBytes + col / 8

/-- `PixelBit(col, row)`. -/
def pixelBit (col : Nat) : Nat := 7 - col % 8

/-- A byte with one bit written and the other seven kept. -/
def writeBit (v : Byte) (k : Nat) (b : Bool) : Byte := if b then v ||| (1#8 <<< k) else v &&& ~~~(1#8 <<< k)

/-- `PixelGet(col, row)`, also the source's `is_pixel_set`. R50 defines it on the screen only; the machine calls it nowhere else. DESIGN CHOICE
(log 34): off the screen the same formula is read, whatever byte it names. -/
def State.pixelGet (s : State) (col row : Nat) : Bool := (s.byteAt (pixelAddr s.cfg col row)).getLsbD (pixelBit col)

/-- `PixelSet(col, row, b)`. -/
def State.pixelSet (s : State) (col row : Nat) (b : Bool) : State :=
  s.setByte (pixelAddr s.cfg col row) (writeBit (s.byteAt (pixelAddr s.cfg col row)) (pixelBit col) b)

/-- `PixelFlip(col, row)`. -/
def State.pixelFlip (s : State) (col row : Nat) : State := s.pixelSet col row !(s.pixelGet col row)

/-- Flip the pixels of a list, one after the other. -/
def State.flipPixels (s : State) : List (Nat × Nat) → State
  | [] => s
  | p :: ps => (s.pixelFlip p.1 p.2).flipPixels ps

/-- Some pixel of the list is on before any is flipped (44_display.md R171: the pre-XOR state is sampled). -/
def State.collides (s : State) (ps : List (Nat × Nat)) : Bool := ps.any fun p => s.pixelGet p.1 p.2

/-- The pixels one sprite byte flips, its bit 7 at column `x0`; those off the right or bottom edge are dropped (R171, R173). -/
def rowPixels (x0 row : Nat) (b : Byte) : List (Nat × Nat) :=
  (List.range 8).filterMap fun c =>
    if row < displayHeight ∧ x0 + c < displayWidth ∧ b.getLsbD (7 - c) = true then some (x0 + c, row) else none

/-- The pixels a sprite flips, its top row at `y0`. -/
def spritePixels (x0 y0 : Nat) : List Byte → List (Nat × Nat)
  | [] => []
  | b :: bs => rowPixels x0 y0 b ++ spritePixels x0 (y0 + 1) bs

/-- Zero every byte of DISPLAY (R170): no cell of it stays listed, and an unlisted byte there reads 0. -/
def State.clearDisplay (s : State) : State := { s with mem := s.mem.filter fun c => !s.cfg.inDisplay c.1 }

/-! ### The four ends of an instruction (40_step_cycle.md R94) -/

/-- `Done`: the step returns `Continue`. The tick is the step's (R95). -/
def State.complete (s : State) : State := { s with result := some .cont }

/-- `Halt`: only `status` changes (R90, 60_exceptions.md R224). -/
def State.halt (s : State) : State := { s with status := .halted, result := some .halted }

/-- `Await`: nothing changes (R90, 60_exceptions.md R225). -/
def State.await (s : State) : State := { s with result := some .awaitingKey }

/-- `raise Fault(reason)`, the VM's fault entry (60_exceptions.md R222): `status <- Faulted(reason)` and nothing else. There is no saved
pc, no cause register and no handler address. There is no return from it (R223). -/
def State.raiseFault (s : State) (r : FaultReason) : State := { s with status := .faulted r, result := some (.faulted r) }

/-- The end of an instruction whose checks answer a fault reason or the state after its effect. -/
def State.completeOr (s : State) : Except FaultReason State → State
  | .ok t => t.complete
  | .error r => s.raiseFault r

/-! ### The tick and the end of a step -/

/-- One timer counted down, with floor 0 (10_state.md R16). -/
def countDown (t : Byte) : Byte := if t = 0#8 then 0#8 else t - 1#8

/-- One tick of both timers (R95). -/
def State.tick (s : State) : State := { s with delay := countDown s.delay, sound := countDown s.sound }

/-- The tick after an executed instruction: only where the step returns `Continue` and `TICK_ON_STEP` holds (R95; log 17). -/
def State.tickIfContinue (s : State) : State := if s.cfg.tickOnStep && s.result == some .cont then s.tick else s

/-- The arguments of this call are used up: the next step gets fresh ones (R102; logs 4, 5). -/
def State.nextInput (s : State) : State := { s with inputs := s.inputs.tail, freeIndex := s.freeIndex + 1 }

/-- What a step does after its instruction. -/
def State.finishStep (s : State) : State := s.tickIfContinue.nextInput

/-- A step called in a terminal status returns the same result again (R91; log 20). -/
def State.repeatHalted (s : State) : State := { s with result := some .halted }

/-- A step called in a terminal status returns the same result again, with the same reason (R91). -/
def State.repeatFaulted (s : State) (r : FaultReason) : State := { s with result := some (.faulted r) }

end Sys2Proof.Machine
end

