-- ==== Sys2Proof/Machine/Operands.lean ====
section
/-! DEFINITION. The operand forms: immediates (30_encoding.md R72), the address `I + k` (43_index_and_memory.md R156), the block of registers
V0 to V[X], decimal digits, and the two inputs of a step (45_timers_and_keys.md R196, 42_load_and_alu.md R141). -/

namespace Sys2Proof.Machine

/-- An address field as a 16-bit value: every widening is a zero extension (R72). -/
def addressOf (nnn : BitVec 12) : Word := nnn.setWidth 16

/-- BNNN's target, `NNN + V0` (41_flow_and_skips.md R117): at most 4350, so it does not wrap. -/
def indexedTarget (nnn : BitVec 12) (v0 : Byte) : Word := nnn.setWidth 16 + v0.setWidth 16

/-- The base address of a memory operand, a natural number that never wraps (20_memory.md R58). -/
def State.base (s : State) : Nat := s.i.toNat

/-- The values of V0 to V[x] (R154). -/
def State.firstRegs (s : State) (x : RegId) : List Byte := (List.range (x.toNat + 1)).map fun k => s.getV (BitVec.ofNat 4 k)

/-- V0 to V[x] loaded from a list of bytes, the others kept (R155). -/
def State.loadFirstRegs (s : State) (x : RegId) (bs : List Byte) : State :=
  { s with v := Vector.ofFn fun k : Fin 16 => if k.val ≤ x.toNat then bs.getD k.val 0#8 else s.v[k] }

/-- Hundreds, tens and units of a value (R153). -/
def decimalDigits (b : Byte) : List Byte :=
  [BitVec.ofNat 8 (b.toNat / 100), BitVec.ofNat 8 (b.toNat / 10 % 10), BitVec.ofNat 8 (b.toNat % 10)]

/-- The address of the glyph for a value, unmasked (R152; log 22). -/
def glyphAddress (b : Byte) : Word := BitVec.ofNat 16 (glyphBytes * b.toNat)

/-- The key state of this step: the host's argument, absent where none is listed (R196; log 4). -/
def State.keys (s : State) : KeyState :=
  match s.inputs with
  | [] => none
  | c :: _ => c.keys

/-- The random byte of this step: the host's argument, a free value where none is listed (R141; log 5). -/
def State.rand (s : State) : Byte :=
  match s.inputs with
  | [] => Config.freeRand s.freeIndex
  | c :: _ => c.rand

/-- `pressed(k)` (R196): false for an absent map and for every `k` of 16 or more (log 15). -/
def pressed (keys : KeyState) (k : Nat) : Bool :=
  match keys with
  | none => false
  | some m => m[k]?.getD false

/-- The least pressed key (R195; log 14). -/
def leastPressed (keys : KeyState) : Option Nat := (List.range 16).find? fun k => pressed keys k

end Sys2Proof.Machine
end

