-- ==== Sys2Proof/Machine/Alu.lean ====
section
/-! DEFINITION. Register loads, arithmetic, logic, shifts and the random byte (42_load_and_alu.md). -/

namespace Sys2Proof.Machine

/-- 6XNN (R130). -/
def execLdImm (x : RegId) (nn : Byte) (s : State) : Host.Outcome State Fault Refusal := .next (s.setV x nn).advance.complete

/-- 7XNN (R131): modulo 256, no flag. -/
def execAddImm (x : RegId) (nn : Byte) (s : State) : Host.Outcome State Fault Refusal :=
  .next (s.setV x (s.getV x + nn)).advance.complete

/-- 8XY0 (R132). -/
def execLdReg (x y : RegId) (s : State) : Host.Outcome State Fault Refusal := .next (s.setV x (s.getV y)).advance.complete

/-- 8XY1 (R133). -/
def execOrReg (x y : RegId) (s : State) : Host.Outcome State Fault Refusal :=
  .next (s.setV x (s.getV x ||| s.getV y)).advance.complete

/-- 8XY2 (R134). -/
def execAndReg (x y : RegId) (s : State) : Host.Outcome State Fault Refusal :=
  .next (s.setV x (s.getV x &&& s.getV y)).advance.complete

/-- 8XY3 (R135). -/
def execXorReg (x y : RegId) (s : State) : Host.Outcome State Fault Refusal :=
  .next (s.setV x (s.getV x ^^^ s.getV y)).advance.complete

/-- 8XY4 (R136): VF = carry. -/
def execAddReg (x y : RegId) (s : State) : Host.Outcome State Fault Refusal :=
  .next (s.setFlagThen (flagByte (carryOut (s.getV x) (s.getV y))) x (s.getV x + s.getV y)).advance.complete

/-- 8XY5 (R137): VF = no borrow. -/
def execSubReg (x y : RegId) (s : State) : Host.Outcome State Fault Refusal :=
  .next (s.setFlagThen (flagByte (notBorrow (s.getV x) (s.getV y))) x (s.getV x - s.getV y)).advance.complete

/-- 8XY6 (R138): V[X] is shifted, Y is ignored. -/
def execShr (x _y : RegId) (s : State) : Host.Outcome State Fault Refusal :=
  .next (s.setFlagThen (flagByte (shiftedOutRight (s.getV x))) x (s.getV x >>> 1)).advance.complete

/-- 8XY7 (R139): VF = no borrow in the subtraction performed. -/
def execSubnReg (x y : RegId) (s : State) : Host.Outcome State Fault Refusal :=
  .next (s.setFlagThen (flagByte (notBorrow (s.getV y) (s.getV x))) x (s.getV y - s.getV x)).advance.complete

/-- 8XYE (R140): a shift, not a rotate. -/
def execShl (x _y : RegId) (s : State) : Host.Outcome State Fault Refusal :=
  .next (s.setFlagThen (flagByte (shiftedOutLeft (s.getV x))) x (s.getV x <<< 1)).advance.complete

/-- CXNN (R141). -/
def execRnd (x : RegId) (nn : Byte) (s : State) : Host.Outcome State Fault Refusal :=
  .next (s.setV x (s.rand &&& nn)).advance.complete

end Sys2Proof.Machine
end

