-- ==== Sys2Proof/Machine/Display.lean ====
section
/-! DEFINITION. Clear and XOR sprite draw (44_display.md). -/

namespace Sys2Proof.Machine

/-- 00E0 (R170). -/
def execCls (s : State) : Host.Outcome State Fault Refusal := .next (s.clearDisplay.setDrawFlag true).advance.complete

/-- The effect of DXYN once its sprite bytes are read: every drawn pixel flips, VF tells whether one was on (R171). -/
def State.drawSprite (s : State) (x0 y0 : Nat) (rows : List Byte) : State :=
  ((s.flipPixels (spritePixels x0 y0 rows)).setV 0xF#4 (flagByte (s.collides (spritePixels x0 y0 rows)))).setDrawFlag true

/-- DXYN (R171): all N sprite bytes are read and checked first; the origin is not reduced (log 18). -/
def execDrw (x y : RegId) (n : BitVec 4) (s : State) : Host.Outcome State Fault Refusal :=
  .next (s.completeOr ((s.readBlock s.base n.toNat).map fun rows =>
    (s.drawSprite (s.getV x).toNat (s.getV y).toNat rows).advance))

end Sys2Proof.Machine
end

