-- ==== Sys2Proof/Machine/Flow.lean ====
section
/-! DEFINITION. Control transfer and register skips (41_flow_and_skips.md). No target is checked here: a bad one faults at the next
fetch. -/

namespace Sys2Proof.Machine

/-- 00EE (R110): return to the popped address, or halt at depth 0. -/
def execRet (s : State) : Host.Outcome State Fault Refusal :=
  match s.pop with
  | none => .next s.halt
  | some (a, t) => .next (t.setPc a).complete

/-- 1NNN (R111). -/
def execJp (nnn : BitVec 12) (s : State) : Host.Outcome State Fault Refusal := .next (s.setPc (addressOf nnn)).complete

/-- 2NNN (R112): push `pc + 2`, or fault at depth 12. -/
def execCall (nnn : BitVec 12) (s : State) : Host.Outcome State Fault Refusal :=
  match s.push (s.pc + 2#16) with
  | none => .next (s.raiseFault .stackOverflow)
  | some t => .next (t.setPc (addressOf nnn)).complete

/-- 3XNN (R113). -/
def execSeImm (x : RegId) (nn : Byte) (s : State) : Host.Outcome State Fault Refusal :=
  .next (s.skipIf (s.getV x == nn)).complete

/-- 4XNN (R114). -/
def execSneImm (x : RegId) (nn : Byte) (s : State) : Host.Outcome State Fault Refusal :=
  .next (s.skipIf (s.getV x != nn)).complete

/-- 5XY0 (R115). -/
def execSeReg (x y : RegId) (s : State) : Host.Outcome State Fault Refusal :=
  .next (s.skipIf (s.getV x == s.getV y)).complete

/-- 9XY0 (R116). -/
def execSneReg (x y : RegId) (s : State) : Host.Outcome State Fault Refusal :=
  .next (s.skipIf (s.getV x != s.getV y)).complete

/-- BNNN (R117): always V0, whatever the X nibble. -/
def execJpV0 (nnn : BitVec 12) (s : State) : Host.Outcome State Fault Refusal :=
  .next (s.setPc (indexedTarget nnn (s.getV 0x0#4))).complete

end Sys2Proof.Machine
end

