-- ==== Sys2Proof/Machine/Index.lean ====
section
/-! DEFINITION. The address register and the loads, stores and digits through it (43_index_and_memory.md). -/

namespace Sys2Proof.Machine

/-- ANNN (R150). -/
def execLdI (nnn : BitVec 12) (s : State) : Host.Outcome State Fault Refusal := .next (s.setI (addressOf nnn)).advance.complete

/-- FX1E (R151): a sum past the memory sets VF; one that does not fit 16 bits faults. -/
def execAddI (x : RegId) (s : State) : Host.Outcome State Fault Refusal :=
  let sum := s.i.toNat + (s.getV x).toNat
  if sum ≥ 65536 then .next (s.raiseFault .addressOverflow)
  else .next ((s.setI (BitVec.ofNat 16 sum)).setV 0xF#4 (flagByte (outsideMemory s.cfg.memSize sum))).advance.complete

/-- FX29 (R152). -/
def execLdFont (x : RegId) (s : State) : Host.Outcome State Fault Refusal :=
  .next (s.setI (glyphAddress (s.getV x))).advance.complete

/-- FX33 (R153): three digits at I, I+1, I+2, or a fault with nothing written. -/
def execLdBcd (x : RegId) (s : State) : Host.Outcome State Fault Refusal :=
  .next (s.completeOr (s.advance.writeBlock s.base (decimalDigits (s.getV x))))

/-- FX55 (R154): V0 to V[X] at I, I+1, …, or a fault with nothing written. -/
def execStoreRegs (x : RegId) (s : State) : Host.Outcome State Fault Refusal :=
  .next (s.completeOr (s.advance.writeBlock s.base (s.firstRegs x)))

/-- FX65 (R155): V0 to V[X] from I, I+1, …, or a fault with nothing loaded. -/
def execLoadRegs (x : RegId) (s : State) : Host.Outcome State Fault Refusal :=
  .next (s.completeOr ((s.readBlock s.base (x.toNat + 1)).map fun bs => (s.loadFirstRegs x bs).advance))

end Sys2Proof.Machine
end

