-- ==== Sys2Proof/Machine/Reserved.lean ====
section
/-! DEFINITION. The reserved no-op (40_step_cycle.md R101). -/

namespace Sys2Proof.Machine

/-- NOP.reserved: `pc + 2` and nothing else (R101). -/
def execNopReserved (_w : Word) (s : State) : Host.Outcome State Fault Refusal := .next s.advance.complete

end Sys2Proof.Machine
end

