-- ==== Sys2Proof/Machine/TimersKeys.lean ====
section
/-! DEFINITION. Timer and keypad instructions (45_timers_and_keys.md). The tick of the same step follows the instruction
(40_step_cycle.md R95). -/

namespace Sys2Proof.Machine

/-- FX07 (R190). -/
def execLdVxDt (x : RegId) (s : State) : Host.Outcome State Fault Refusal := .next (s.setV x s.delay).advance.complete

/-- FX15 (R191). -/
def execLdDtVx (x : RegId) (s : State) : Host.Outcome State Fault Refusal := .next (s.setDelay (s.getV x)).advance.complete

/-- FX18 (R192). -/
def execLdStVx (x : RegId) (s : State) : Host.Outcome State Fault Refusal := .next (s.setSound (s.getV x)).advance.complete

/-- EX9E (R193): the register is not masked to a nibble (log 15). -/
def execSkp (x : RegId) (s : State) : Host.Outcome State Fault Refusal :=
  .next (s.skipIf (pressed s.keys (s.getV x).toNat)).complete

/-- EXA1 (R194). -/
def execSknp (x : RegId) (s : State) : Host.Outcome State Fault Refusal :=
  .next (s.skipIf (!pressed s.keys (s.getV x).toNat)).complete

/-- FX0A (R195): level-sensitive, the least key wins (log 14); with no key down nothing changes and the step returns `AwaitingKey`. -/
def execLdVxK (x : RegId) (s : State) : Host.Outcome State Fault Refusal :=
  match leastPressed s.keys with
  | some k => .next (s.setV x (BitVec.ofNat 8 k)).advance.complete
  | none => .next s.await

end Sys2Proof.Machine
end

