-- ==== Sys2Proof/Machine/Step.lean ====
section
/-! DEFINITION. One call of `step` (40_step_cycle.md R90): terminal states, fetch, decode, execute, tick. -/

namespace Sys2Proof.Machine

/-- One `step` call, its arguments taken from `State.inputs`. What it returns to the host is left in `State.result`. -/
def step (s : State) : Host.Outcome State Fault Refusal :=
  match s.status with
  | .halted => .next s.repeatHalted.finishStep
  | .faulted r => .next (s.repeatFaulted r).finishStep
  | .running =>
    match s.fetch with
    | .error r => .next (s.raiseFault r).finishStep
    | .ok op =>
      match exec (decode op) s with
      | .next t => .next t.finishStep
      | .fault f => .fault f
      | .refused r => .refused r

/-- The state with a row's word stored at `pc`, where the next step fetches: it stands for the ROM that construction loads there
(log 2). -/
def State.withFetchWord (s : State) (nbits w : Nat) : State :=
  s.setBytes s.pc.toNat [highByte (tableWord nbits w), lowByte (tableWord nbits w)]

end Sys2Proof.Machine
end

