-- ==== Sys2Proof/Machine/HostOps.lean ====
section
/-! DEFINITION. The host's operations (60_exceptions.md R229 to R235, 70_reset_and_hazards.md R250 to R252). The host acts only between
steps (R236; log 26), so each is a function on states and none is part of `step`. -/

namespace Sys2Proof.Machine

/-- The state of a new VM before its ROM is loaded: the font and zeros in memory, every register at its reset value (R252). -/
def State.blank (c : Config) : State := { State.reset with cfg := c }

/-- `construct(memory_size, rom, FONT, TICK_ON_STEP)` (R250, R251, R252), the checks in the order of R251. -/
def construct (c : Config) (rom : List Byte) : Except ConfigError State :=
  if c.memSize < 865 then .error .memoryTooSmall
  else if 65536 < c.memSize then .error .memoryTooLarge
  else if c.maxRomLen < rom.length then .error .romTooLarge
  else .ok ((State.blank c).setBytes programStart rom)

/-- `step(keys, rand)` with arguments given at the call (R234): they come before any arguments already listed. -/
def State.callStep (s : State) (keys : KeyState) (rand : Byte) : Host.Outcome State Fault Refusal :=
  step { s with inputs := ⟨keys, rand⟩ :: s.inputs }

/-- `run_to_completion` (R235): step until the result is `Halted` or `Faulted`. It need not end, so it takes a bound on the number of
steps and answers none where the bound is reached first (log 29). -/
def runToCompletion : Nat → State → Option State
  | 0, _ => none
  | fuel + 1, s =>
    match step s with
    | .next t => if t.result = some .cont ∨ t.result = some .awaitingKey then runToCompletion fuel t else some t
    | .fault _ => none
    | .refused _ => none

/-- `tick_timers()` (R229): one tick, in any status. -/
def State.tickTimers (s : State) : State := s.tick

/-- `draw_flag_and_clear()` (R233): the flag as it was, and the state with it false. -/
def State.drawFlagAndClear (s : State) : Bool × State := (s.drawFlag, s.setDrawFlag false)

/-- `framebuffer_snapshot()` (R230): 32 rows of 64 pixels. -/
def State.framebufferSnapshot (s : State) : List (List Bool) :=
  (List.range displayHeight).map fun row => (List.range displayWidth).map fun col => s.pixelGet col row

/-- `is_pixel_set(x, y)` (20_memory.md R50, for `x < 64` and `y < 32` only). DESIGN CHOICE, unsafe (log 34): off the screen, which the spec leaves
open, the same formula answers: `x` of 64 or more a pixel of a later row, `y` of 32 or more a byte past `MEM_SIZE`, which reads 0. -/
def State.isPixelSet (s : State) (col row : Nat) : Bool := s.pixelGet col row

/-- `delay_timer()` (R231). -/
def State.delayTimer (s : State) : Byte := s.delay

/-- `sound_timer()` (R231). -/
def State.soundTimer (s : State) : Byte := s.sound

/-- The tone signal: on exactly while `sound` is not 0 (R231). -/
def State.toneOn (s : State) : Bool := s.sound != 0#8

/-- `register_snapshot()` (R232): the sixteen V registers and `I`. -/
def State.registerSnapshot (s : State) : Vector Byte 16 × Word := (s.v, s.i)

/-- `program_counter()` (R232). -/
def State.programCounter (s : State) : Word := s.pc

/-- `stack_depth()` (R232). -/
def State.stackDepth (s : State) : Nat := s.sp.val

/-- The numeric code of a fault reason (R211). -/
def FaultReason.code : FaultReason → Nat
  | .stackOverflow => 1
  | .stackUnderflow => 2
  | .outOfBounds => 3
  | .addressOverflow => 4
  | .reservedAccess => 5
  | .protectedWrite => 6
  | .misalignedFetch => 7

end Sys2Proof.Machine
end

