-- ==== Sys2Proof/Safety.lean ====
section
/-! DEFINITION. What claims are stated in: the invariant of reachable states, the addresses each access may use, and what an instruction leaves
unchanged. Written apart from the functions the machine runs. -/

namespace Sys2Proof.Machine

/-- A data read of the address is allowed (20_memory.md R42). -/
abbrev Readable (c : Config) (a : Nat) : Prop := a < c.memSize ∧ ¬(c.memSize - 352 ≤ a ∧ a < c.memSize - 256)

/-- A data write of the address is allowed (R42). -/
abbrev Writable (c : Config) (a : Nat) : Prop := Readable c a ∧ 80 ≤ a

/-- The reason a forbidden data read faults with (R42, R43). -/
def readReason (c : Config) (a : Nat) : FaultReason := if c.memSize ≤ a then .outOfBounds else .reservedAccess

/-- The reason a forbidden data write faults with (R42, R44). -/
def writeReason (c : Config) (a : Nat) : FaultReason :=
  if c.memSize ≤ a then .outOfBounds else if Readable c a then .protectedWrite else .reservedAccess

/-- What holds of every state a VM can be in (10_state.md R21, 00_scope.md R2): a legal size, memory in its canonical form with no cell outside
the memory or in RESERVED, the font as loaded, and even return addresses (each is `a + 2` for the address of a fetched 2NNN). -/
structure State.Inv (s : State) : Prop where
  /-- The size is one construction accepts. -/
  legal : s.cfg.Legal
  /-- Memory is in canonical form. -/
  canonical : Memory.Wf s.cfg.font s.mem
  /-- No cell is listed at or past `MEM_SIZE`, or in RESERVED. -/
  inside : ∀ c ∈ s.mem, Readable s.cfg c.1
  /-- `M[0..79] = FONT`. -/
  font : ∀ k : Fin 80, s.byteAt k.val = s.cfg.font[k]
  /-- Live return addresses are even. -/
  returns : ∀ k : Fin 12, k.val < s.sp.val → s.stack[k].toNat % 2 = 0

/-- What an instruction may change besides `pc` and what the step reports. -/
structure Changes where
  v : Bool := false
  i : Bool := false
  stack : Bool := false
  delay : Bool := false
  sound : Bool := false
  drawFlag : Bool := false
  memory : Bool := false
  status : Bool := false

/-- Everything not named in `c` is as it was: registers, `I`, the stack and its depth, the timers, `draw_flag`, every byte of memory, `status`;
and always the parameters and the inputs. -/
structure Frame (c : Changes) (s t : State) : Prop where
  v : c.v = false → ∀ z, t.getV z = s.getV z
  i : c.i = false → t.i = s.i
  stack : c.stack = false → t.sp = s.sp ∧ ∀ k : Fin 12, t.stack[k] = s.stack[k]
  delay : c.delay = false → t.delay = s.delay
  sound : c.sound = false → t.sound = s.sound
  drawFlag : c.drawFlag = false → t.drawFlag = s.drawFlag
  memory : c.memory = false → ∀ a, t.byteAt a = s.byteAt a
  status : c.status = false → t.status = s.status
  cfg : t.cfg = s.cfg
  inputs : t.inputs = s.inputs ∧ t.freeIndex = s.freeIndex

/-- The status that goes with a result of `step` (60_exceptions.md R234, the table). -/
def StepResult.statusAfter : StepResult → Status
  | .cont => .running
  | .awaitingKey => .running
  | .halted => .halted
  | .faulted r => .faulted r

/-- The state after a step that faults: `status` and the result, and the call's arguments used up. -/
def State.afterFault (s : State) (r : FaultReason) : State :=
  { s with status := .faulted r, result := some (.faulted r), inputs := s.inputs.tail, freeIndex := s.freeIndex + 1 }

/-- The state after a step that halts: `status` and the result, and the call's arguments used up. -/
def State.afterHalt (s : State) : State :=
  { s with status := .halted, result := some .halted, inputs := s.inputs.tail, freeIndex := s.freeIndex + 1 }

/-- The host's next call gives a key map in which key `k` is pressed (45_timers_and_keys.md R196). -/
def State.keyDown (s : State) (k : Nat) : Prop :=
  ∃ c l m, s.inputs = c :: l ∧ c.keys = some m ∧ ∃ h : k < 16, m[k] = true

/-- Row `r` of the sprite at `I` has a 1 for column offset `c`: bit `7 - c` of its byte (44_display.md R173). -/
def State.spriteBit (s : State) (r c : Nat) : Bool := (s.byteAt (s.i.toNat + r)).getLsbD (7 - c)

/-- The `n`-row sprite at `I`, drawn with its top-left pixel at (`x0`, `y0`), has a 1 for the pixel (`col`, `row`) (R171). -/
def State.spriteCovers (s : State) (x0 y0 n col row : Nat) : Prop :=
  x0 ≤ col ∧ col < x0 + 8 ∧ y0 ≤ row ∧ row < y0 + n ∧ s.spriteBit (row - y0) (col - x0) = true

/-- The instructions that can fault by themselves (60_exceptions.md R211). -/
def canFault : Instr → Bool
  | .call _ | .drw _ _ _ | .addI _ | .ldBcd _ | .storeRegs _ | .loadRegs _ => true
  | _ => false

/-- The instructions that can write memory (20_memory.md R40). -/
def writesMemory : Instr → Bool
  | .cls | .drw _ _ _ | .ldBcd _ | .storeRegs _ => true
  | _ => false

/-- The instructions that read an input of the step (40_step_cycle.md R102). -/
def readsInput : Instr → Bool
  | .rnd _ _ | .skp _ | .sknp _ | .ldVxK _ => true
  | _ => false

/-- The V registers an instruction can write: its destination X (for FX65 every register up to X), and VF for the seven flag writers
(10_state.md R11, R12). -/
def writesV : Instr → RegId → Bool
  | .ldImm x _, z | .addImm x _, z | .ldReg x _, z | .orReg x _, z | .andReg x _, z | .xorReg x _, z => z == x
  | .rnd x _, z | .ldVxDt x, z | .ldVxK x, z => z == x
  | .addReg x _, z | .subReg x _, z | .shr x _, z | .subnReg x _, z | .shl x _, z => z == x || z == 0xF#4
  | .loadRegs x, z => decide (z.toNat ≤ x.toNat)
  | .drw _ _ _, z | .addI _, z => z == 0xF#4
  | _, _ => false

end Sys2Proof.Machine
end

