-- ==== Sys2Proof/Certificates/Slice0/Obligations.lean ====
section
/-! DEFINITION. The statements for the provers. A title that says "the spec's own decision" names a choice of spec/92_eei_decisions.md. -/

open Sys2Proof Sys2Proof.Machine

/-! ### Construction and reset -/

/-- 10_state.md R22: what construction leaves in the registers, timers, stack pointer and framebuffer, and that the first instruction fetched is
the one at ROM offset 0. -/
def Obligations.ConstructedRegistersAndEntry : Prop :=
  ∀ (c : Config) (rom : List Byte) (s : State), construct c rom = .ok s →
    (∀ z, s.getV z = 0#8) ∧ s.i.toNat = 0 ∧ s.pc.toNat = 512 ∧ s.delay.toNat = 60 ∧ s.sound.toNat = 60 ∧ s.sp.val = 0 ∧
    (∀ col row, col < 64 → row < 32 → s.isPixelSet col row = false) ∧
    (∀ b₀ b₁ rest, rom = b₀ :: b₁ :: rest → s.fetch = .ok (joinBytes b₀ b₁))

/-- 10_state.md section 13 (R24, R25): memory after construction is the font, the ROM, and zeros at every other address; status, draw flag and stack slots.
The zeros of LOW and of the program region past the ROM, the draw flag and the slots are the spec's own decisions D5, D7, D6 (logs 9, 11, 10). The zeros of
the 96 reserved bytes, to which R24 gives no content, and of the addresses at or past `MEM_SIZE`, which do not exist, are the model's own choice (log 8): no
checked access reads them. -/
def Obligations.ConstructedMemoryAndFlags : Prop :=
  ∀ (c : Config) (rom : List Byte) (s : State), construct c rom = .ok s →
    (∀ a (h : a < 80), s.byteAt a = c.font[a]) ∧
    (∀ k (h : k < rom.length), s.byteAt (512 + k) = rom[k]) ∧
    (∀ a, 80 ≤ a → a < 512 ∨ 512 + rom.length ≤ a → s.byteAt a = 0#8) ∧
    s.cfg = c ∧ s.status = .running ∧ s.drawFlag = false ∧ ∀ k : Fin 12, s.stack[k] = 0#16

/-- 70_reset_and_hazards.md section 1 (R251): when construction fails, and with which error. The upper bound and the order are the spec's own decisions
D1, D26 (log 2). -/
def Obligations.ConstructErrors : Prop :=
  ∀ (c : Config) (rom : List Byte),
    (c.memSize < 865 → construct c rom = .error .memoryTooSmall) ∧
    (865 ≤ c.memSize → 65536 < c.memSize → construct c rom = .error .memoryTooLarge) ∧
    (c.Legal → c.memSize - 864 < rom.length → construct c rom = .error .romTooLarge) ∧
    (c.Legal → rom.length ≤ c.memSize - 864 → ∃ s, construct c rom = .ok s)

/-- The model's reset state is a VM constructed at the canonical size from an empty ROM, with the default font and timers that tick on every
completed step (the model's choice of construction arguments, log 2). -/
def Obligations.ResetIsCanonicalConstruction : Prop :=
  construct { memSize := 4096, tickOnStep := true, font := defaultFont } [] = .ok State.reset

/-- The invariant holds at reset. -/
def Obligations.ResetMeetsInvariant : Prop := State.reset.Inv

/-- The invariant holds of every constructed VM. -/
def Obligations.ConstructionMeetsInvariant : Prop :=
  ∀ (c : Config) (rom : List Byte) (s : State), construct c rom = .ok s → s.Inv

/-- 10_state.md section 12 (R21, derived by the spec): every step keeps the invariant, from every state that has it: the memory stays canonical and
inside `MEM_SIZE`, the reserved region unlisted, the font immutable, the live return addresses even, the size legal. -/
def Obligations.StepKeepsInvariant : Prop :=
  ∀ s t : State, s.Inv → step s = .next t → t.Inv

/-- The host's operations between steps keep the invariant too. -/
def Obligations.HostOperationsKeepInvariant : Prop :=
  ∀ s : State, s.Inv → s.tickTimers.Inv ∧ s.drawFlagAndClear.2.Inv

/-! ### The step cycle -/

/-- 93_implementation_defined.md, end of Part 1: `step` is total, on every state; nothing is stuck. A step that faults the VM counts as a next state here,
its status `Faulted(reason)`: the model's reading (DEDUCED, log 7). And no step changes what construction fixed (10_state.md section 1, 00_scope.md section
4), which the model keeps in the field `cfg` of the state: the model's choice (log 1). -/
def Obligations.StepIsTotal : Prop :=
  ∀ s : State, ∃ t, step s = .next t ∧ t.cfg = s.cfg

/-- 40_step_cycle.md R93, R94: where the bytes at `pc` can be fetched and decode to `i`, a step of a running machine is `exec i`, and after it the tick (where it is
due) and the move to the next call's arguments, which is the model's record of them (logs 4, 5). -/
def Obligations.StepRunsDecodedInstruction : Prop :=
  ∀ (s : State) (i : Instr) (rest : List Byte), s.status = .running → fetchFault s.cfg s.pc.toNat = none →
    decodeBytes [s.byteAt s.pc.toNat, s.byteAt (s.pc.toNat + 1)] = .ok (i, rest) → i.wellFormed = true →
    step s = match exec i s with
      | .next t => .next t.tickIfContinue.nextInput
      | .fault f => .fault f
      | .refused r => .refused r

/-- 40_step_cycle.md section 2 (R95): the tick of a completed instruction, after its own writes, with floor 0; none on a step that ends otherwise. That the
tick comes last and only on `Continue` is the spec's own decision D11 (log 17). -/
def Obligations.TickAfterCompletedInstruction : Prop :=
  ∀ (s : State) (op : Word) (u : State), s.status = .running → s.fetch = .ok op → exec (decode op) s = .next u →
    ∃ t, step s = .next t ∧
      (s.cfg.tickOnStep = true → u.result = some .cont →
        t.delay.toNat = u.delay.toNat - 1 ∧ t.sound.toNat = u.sound.toNat - 1) ∧
      (s.cfg.tickOnStep = false ∨ u.result ≠ some .cont → t.delay = u.delay ∧ t.sound = u.sound) ∧
      t.result = u.result ∧ t.pc = u.pc ∧ Frame { delay := true, sound := true } u { t with inputs := u.inputs, freeIndex := u.freeIndex }

/-- 20_memory.md section 3 (R45): the fetch checks, in their order, and that a fetch fault changes `status` alone. The reserved and alignment faults, the order and
the precision are the spec's own decisions D6, D9, D21, D20 (logs 12, 19). -/
def Obligations.FetchFaultsInOrder : Prop :=
  ∀ s : State, s.status = .running →
    (s.cfg.memSize ≤ s.pc.toNat + 1 → step s = .next (s.afterFault .outOfBounds)) ∧
    (s.pc.toNat + 1 < s.cfg.memSize → ¬Readable s.cfg s.pc.toNat ∨ ¬Readable s.cfg (s.pc.toNat + 1) →
      step s = .next (s.afterFault .reservedAccess)) ∧
    (Readable s.cfg s.pc.toNat → Readable s.cfg (s.pc.toNat + 1) → s.pc.toNat % 2 = 1 →
      step s = .next (s.afterFault .misalignedFetch))

/-- 20_memory.md section 3 (R45), section 4 (R46): a fetch that passes its checks reads `pc` as the high byte and `pc + 1` as the low byte. That an odd `pc` and the
reserved region do not pass are the spec's own decisions D9, D6 (log 19). -/
def Obligations.FetchIsBigEndian : Prop :=
  ∀ s : State, s.pc.toNat % 2 = 0 → Readable s.cfg s.pc.toNat → Readable s.cfg (s.pc.toNat + 1) →
    ∃ op, s.fetch = .ok op ∧ op.toNat = (s.byteAt s.pc.toNat).toNat * 256 + (s.byteAt (s.pc.toNat + 1)).toNat

/-- 40_step_cycle.md section 1 (R91): any number of steps from a terminal status change nothing and return the same result. That such a call is harmless is the spec's
own decision D22 (log 20). -/
def Obligations.TerminalStatesStay : Prop :=
  ∀ (n : Nat) (s : State), s.status ≠ .running →
    ∃ t, Host.Core.run Sys2Proof.core (n + 1) s = .next t ∧ t.pc = s.pc ∧ Frame {} s { t with inputs := s.inputs, freeIndex := s.freeIndex } ∧
      ∃ r, t.result = some r ∧ r.statusAfter = s.status

/-- 60_exceptions.md section 6 (R224): the one way to `Halted`, what the halting step changes, and that the halt is the end. That the halting step does not
tick and that later calls are harmless are the spec's own decisions D27, D22 (logs 17, 20). -/
def Obligations.HaltOnlyByReturnAtDepthZero : Prop :=
  (∀ s t : State, s.status = .running → step s = .next t →
    (t.status = .halted ↔ s.fetch = .ok 0x00EE#16 ∧ s.sp.val = 0)) ∧
  (∀ s t : State, s.status = .running → step s = .next t → t.status = .halted →
    t = s.afterHalt) ∧
  (∀ s : State, s.status = .halted → step s = .next s.afterHalt)

/-- 40_step_cycle.md section 3 (R99): a step that faults changes `status` and nothing else, whatever the instruction. Precision is the spec's own decision D20
(log 12). -/
def Obligations.FaultsArePrecise : Prop :=
  ∀ (s t : State) (r : FaultReason), s.status = .running → step s = .next t → t.status = .faulted r →
    t = s.afterFault r

/-- 60_exceptions.md section 2 (R211): an instruction outside 2NNN, DXYN, FX1E, FX33, FX55 and FX65 never faults by itself. The list includes reasons that are the
spec's own decisions (D6, D8, D19, D21). -/
def Obligations.OnlyListedInstructionsFault : Prop :=
  ∀ (i : Instr) (s t : State), canFault i = false → s.status = .running → exec i s = .next t → ∀ r, t.status ≠ .faulted r

/-- 60_exceptions.md section 2 (R213): no step raises `StackUnderflow`. That the code is kept and raised by nothing is the spec's own decision D32 (log 28). -/
def Obligations.StackUnderflowNeverRaised : Prop :=
  ∀ s t : State, s.status = .running → step s = .next t → t.status ≠ .faulted .stackUnderflow

/-- 60_exceptions.md section 9 (R234), the column "status after" of its table: the result of a step tells the status after it. -/
def Obligations.StepResultTellsStatus : Prop :=
  ∀ s t : State, step s = .next t → ∃ r, t.result = some r ∧ r.statusAfter = t.status

/-- 40_step_cycle.md section 3 (R102): only CXNN, EX9E, EXA1 and FX0A depend on the step's inputs. The inputs are the spec's own decision D16 (log 4). -/
def Obligations.InputsReadByFourInstructionsOnly : Prop :=
  ∀ (i : Instr) (s : State) (l : List StepInput) (n : Nat), readsInput i = false →
    exec i { s with inputs := l, freeIndex := n } =
      match exec i s with
      | .next t => .next { t with inputs := l, freeIndex := n }
      | .fault f => .fault f
      | .refused r => .refused r

/-- 20_memory.md section 1 (R40): an instruction other than 00E0, DXYN, FX33 and FX55 leaves every byte of memory as it is, and the draw flag
(10_state.md R17; its stores are the spec's own decision D24, log 21). -/
def Obligations.MemoryWrittenByFourInstructionsOnly : Prop :=
  ∀ (i : Instr) (s t : State), writesMemory i = false → exec i s = .next t →
    (∀ a, t.byteAt a = s.byteAt a) ∧ t.drawFlag = s.drawFlag

/-- 40_step_cycle.md section 3 (R96), the closed-world reading, the spec's own decision D14 (log 31): V registers change only where `writesV` says so, the stack only
by 2NNN and 00EE, `delay` only by FX15, `sound` only by FX18, `I` only by ANNN, FX1E and FX29. -/
def Obligations.OnlyNamedStateChanges : Prop :=
  ∀ (i : Instr) (s t : State), exec i s = .next t →
    (∀ z, writesV i z = false → t.getV z = s.getV z) ∧
    ((∀ a, i ≠ .call a) → i ≠ .ret → t.sp = s.sp ∧ ∀ k : Fin 12, t.stack[k] = s.stack[k]) ∧
    ((∀ x, i ≠ .ldDtVx x) → t.delay = s.delay) ∧ ((∀ x, i ≠ .ldStVx x) → t.sound = s.sound) ∧
    ((∀ a, i ≠ .ldI a) → (∀ x, i ≠ .addI x) → (∀ x, i ≠ .ldFont x) → t.i = s.i)

/-- 20_memory.md section 6 (R53): the bytes a store has written are the bytes the very next fetch sees. Here for FX55, wherever the next instruction lies in the stored block. -/
def Obligations.StoredBytesAreFetchedNext : Prop :=
  ∀ (x : RegId) (s t : State) (k : Nat), exec (.storeRegs x) s = .next t → t.result = some .cont →
    k + 1 ≤ x.toNat → t.pc.toNat = s.i.toNat + k → t.pc.toNat % 2 = 0 →
    t.fetch = .ok (joinBytes (s.getV (BitVec.ofNat 4 k)) (s.getV (BitVec.ofNat 4 (k + 1))))

/-- 40_step_cycle.md R101: a word of the reserved spaces completes with `pc + 2` and the tick, and nothing else. -/
def Obligations.ReservedWordIsNoOp : Prop :=
  (∀ (w : Word) (s : State), ∃ t, exec (.nopReserved w) s = .next t ∧ t.result = some .cont ∧ t.pc = s.pc + 2#16 ∧ Frame {} s t) ∧
  (∀ (s : State) (w : Word), s.status = .running → s.fetch = .ok w → isReservedWord w = true →
    ∃ t, step s = .next t ∧ t.result = some .cont ∧ t.pc = s.pc + 2#16 ∧
      (s.cfg.tickOnStep = true → t.delay.toNat = s.delay.toNat - 1 ∧ t.sound.toNat = s.sound.toNat - 1) ∧
      (s.cfg.tickOnStep = false → t.delay = s.delay ∧ t.sound = s.sound) ∧
      Frame { delay := true, sound := true } s { t with inputs := s.inputs, freeIndex := s.freeIndex })

/-! ### Encoding -/

/-- Every well-formed instruction, with every operand at every value, decodes back from its word and from its bytes. -/
def Obligations.DecodeInvertsEncode : Prop :=
  ∀ i : Instr, i.wellFormed = true → decode (encode i) = i ∧ ∀ rest, decodeBytes (encodeBytes i ++ rest) = .ok (i, rest)

/-- Every word decodes to a well-formed instruction that encodes to that word: no bit is dropped and each word has one meaning. -/
def Obligations.EncodeInvertsDecode : Prop :=
  ∀ w : Word, (decode w).wellFormed = true ∧ encode (decode w) = w

/-- 30_encoding.md section 4 (R75), section 2 (R73): the reserved words are exactly those that match none of the 34 rows. That every fixed digit must match is the
spec's own decision D15 (log 24). -/
def Obligations.ReservedWordsMatchNoPattern : Prop :=
  ∀ w : Word, (∀ p ∈ opcodePatterns, w &&& p.1 ≠ p.2) ↔ decode w = .nopReserved w

/-- Words written out from the encodings of 30_encoding.md R74, one or two of each group. -/
def Obligations.SampleWordsDecode : Prop :=
  decode 0b0000000011100000#16 = .cls ∧ decode 0b0000000011101110#16 = .ret ∧ decode 0b0001001000000100#16 = .jp 0x204#12 ∧
  decode 0b0011000100000000#16 = .seImm 1#4 0#8 ∧ decode 0b1000000100100100#16 = .addReg 1#4 2#4 ∧
  decode 0b1010001100000000#16 = .ldI 0x300#12 ∧ decode 0b1101000000010010#16 = .drw 0#4 1#4 2#4 ∧
  decode 0b1110001010011110#16 = .skp 2#4 ∧ decode 0b1111001101010101#16 = .storeRegs 3#4 ∧
  decode 0b1000000100101000#16 = .nopReserved 0x8128#16

/-! ### Control transfer -/

/-- 41_flow_and_skips.md R111: `pc <- NNN`. -/
def Obligations.JumpSetsPc : Prop :=
  ∀ (nnn : BitVec 12) (s : State), ∃ t, exec (.jp nnn) s = .next t ∧ t.result = some .cont ∧ t.pc.toNat = nnn.toNat ∧ Frame {} s t

/-- 41_flow_and_skips.md R117: `pc <- NNN + V[0]`, with no wrap and no reduction. -/
def Obligations.IndexedJumpAddsV0 : Prop :=
  ∀ (nnn : BitVec 12) (s : State), ∃ t, exec (.jpV0 nnn) s = .next t ∧ t.result = some .cont ∧
    t.pc.toNat = nnn.toNat + (s.getV 0#4).toNat ∧ Frame {} s t

/-- 41_flow_and_skips.md R112, 60_exceptions.md R212: push `pc + 2` and jump, or `StackOverflow` at depth 12 with nothing written. -/
def Obligations.CallPushesAndJumps : Prop :=
  ∀ (nnn : BitVec 12) (s : State),
    (s.sp.val < 12 → ∃ t, exec (.call nnn) s = .next t ∧ t.result = some .cont ∧ t.pc.toNat = nnn.toNat ∧ t.sp.val = s.sp.val + 1 ∧
      (∀ k : Fin 12, t.stack[k] = if k.val = s.sp.val then s.pc + 2#16 else s.stack[k]) ∧ Frame { stack := true } s t) ∧
    (s.sp.val = 12 → exec (.call nnn) s =
      .next { s with status := .faulted .stackOverflow, result := some (.faulted .stackOverflow) })

/-- 41_flow_and_skips.md, the entry of 00EE (R110): return to the top entry, or halt at depth 0. That a halt changes nothing else is the spec's own decision D27
(log 17). -/
def Obligations.ReturnPopsOrHalts : Prop :=
  ∀ s : State,
    (∀ k : Fin 12, s.sp.val = k.val + 1 → ∃ t, exec .ret s = .next t ∧ t.result = some .cont ∧ t.pc = s.stack[k] ∧ t.sp.val = k.val ∧
      (∀ j : Fin 12, t.stack[j] = s.stack[j]) ∧ Frame { stack := true } s t) ∧
    (s.sp.val = 0 → exec .ret s = .next { s with status := .halted, result := some .halted })

/-- 95_test_vectors.md S7: a return that finds the stack as the call left it comes back to the call's `pc + 2` at the call's depth. -/
def Obligations.CallThenReturnComesBack : Prop :=
  ∀ (nnn : BitVec 12) (s t u : State), exec (.call nnn) s = .next t → t.result = some .cont → u.stack = t.stack → u.sp = t.sp →
    ∃ w, exec .ret u = .next w ∧ w.result = some .cont ∧ w.pc = s.pc + 2#16 ∧ w.sp = s.sp

/-- 41_flow_and_skips.md R113 to R116: the four register skips, `pc + 4` where the condition holds, else `pc + 2`, modulo 65536. -/
def Obligations.RegisterSkips : Prop :=
  ∀ (x y : RegId) (nn : Byte) (s : State),
    (∃ t, exec (.seImm x nn) s = .next t ∧ t.result = some .cont ∧ Frame {} s t ∧
      t.pc.toNat = (s.pc.toNat + if s.getV x = nn then 4 else 2) % 65536) ∧
    (∃ t, exec (.sneImm x nn) s = .next t ∧ t.result = some .cont ∧ Frame {} s t ∧
      t.pc.toNat = (s.pc.toNat + if s.getV x ≠ nn then 4 else 2) % 65536) ∧
    (∃ t, exec (.seReg x y) s = .next t ∧ t.result = some .cont ∧ Frame {} s t ∧
      t.pc.toNat = (s.pc.toNat + if s.getV x = s.getV y then 4 else 2) % 65536) ∧
    (∃ t, exec (.sneReg x y) s = .next t ∧ t.result = some .cont ∧ Frame {} s t ∧
      t.pc.toNat = (s.pc.toNat + if s.getV x ≠ s.getV y then 4 else 2) % 65536)

/-! ### Loads and arithmetic -/

/-- 42_load_and_alu.md R130, R131: load and add immediate, no flag. -/
def Obligations.ImmediateForms : Prop :=
  ∀ (x : RegId) (nn : Byte) (s : State),
    (∃ t, exec (.ldImm x nn) s = .next t ∧ t.result = some .cont ∧ t.pc = s.pc + 2#16 ∧ Frame { v := true } s t ∧
      t.getV x = nn ∧ ∀ z, z ≠ x → t.getV z = s.getV z) ∧
    (∃ t, exec (.addImm x nn) s = .next t ∧ t.result = some .cont ∧ t.pc = s.pc + 2#16 ∧ Frame { v := true } s t ∧
      (t.getV x).toNat = ((s.getV x).toNat + nn.toNat) % 256 ∧ ∀ z, z ≠ x → t.getV z = s.getV z)

/-- 42_load_and_alu.md R132 to R135: copy, or, and, exclusive or; no flag. -/
def Obligations.CopyAndLogic : Prop :=
  ∀ (x y : RegId) (s : State),
    (∃ t, exec (.ldReg x y) s = .next t ∧ t.result = some .cont ∧ t.pc = s.pc + 2#16 ∧ Frame { v := true } s t ∧
      t.getV x = s.getV y ∧ ∀ z, z ≠ x → t.getV z = s.getV z) ∧
    (∃ t, exec (.orReg x y) s = .next t ∧ t.result = some .cont ∧ t.pc = s.pc + 2#16 ∧ Frame { v := true } s t ∧
      (∀ k, (t.getV x).getLsbD k = ((s.getV x).getLsbD k || (s.getV y).getLsbD k)) ∧ ∀ z, z ≠ x → t.getV z = s.getV z) ∧
    (∃ t, exec (.andReg x y) s = .next t ∧ t.result = some .cont ∧ t.pc = s.pc + 2#16 ∧ Frame { v := true } s t ∧
      (∀ k, (t.getV x).getLsbD k = ((s.getV x).getLsbD k && (s.getV y).getLsbD k)) ∧ ∀ z, z ≠ x → t.getV z = s.getV z) ∧
    (∃ t, exec (.xorReg x y) s = .next t ∧ t.result = some .cont ∧ t.pc = s.pc + 2#16 ∧ Frame { v := true } s t ∧
      (∀ k, (t.getV x).getLsbD k = ((s.getV x).getLsbD k ^^ (s.getV y).getLsbD k)) ∧ ∀ z, z ≠ x → t.getV z = s.getV z)

/-- 42_load_and_alu.md section 3 (R136): the sum modulo 256 and the carry. With X = 15 the sum stays in VF, by the order that is the spec's own decision D13 (log 13). -/
def Obligations.AddWithCarry : Prop :=
  ∀ (x y : RegId) (s : State), ∃ t, exec (.addReg x y) s = .next t ∧ t.result = some .cont ∧ t.pc = s.pc + 2#16 ∧ Frame { v := true } s t ∧
    (t.getV x).toNat = ((s.getV x).toNat + (s.getV y).toNat) % 256 ∧
    (x ≠ 15#4 → (t.getV 15#4).toNat = if (s.getV x).toNat + (s.getV y).toNat > 255 then 1 else 0) ∧
    ∀ z, z ≠ x → z ≠ 15#4 → t.getV z = s.getV z

/-- 42_load_and_alu.md section 3 (R137, R139): both subtractions with their not-borrow. With X = 15 the difference stays in VF, by the order that is the spec's own
decision D13 (log 13). -/
def Obligations.SubtractWithNotBorrow : Prop :=
  ∀ (x y : RegId) (s : State),
    (∃ t, exec (.subReg x y) s = .next t ∧ t.result = some .cont ∧ t.pc = s.pc + 2#16 ∧ Frame { v := true } s t ∧
      ((t.getV x).toNat : Int) = ((s.getV x).toNat - (s.getV y).toNat : Int) % 256 ∧
      (x ≠ 15#4 → (t.getV 15#4).toNat = if (s.getV x).toNat ≥ (s.getV y).toNat then 1 else 0) ∧
      ∀ z, z ≠ x → z ≠ 15#4 → t.getV z = s.getV z) ∧
    (∃ t, exec (.subnReg x y) s = .next t ∧ t.result = some .cont ∧ t.pc = s.pc + 2#16 ∧ Frame { v := true } s t ∧
      ((t.getV x).toNat : Int) = ((s.getV y).toNat - (s.getV x).toNat : Int) % 256 ∧
      (x ≠ 15#4 → (t.getV 15#4).toNat = if (s.getV y).toNat ≥ (s.getV x).toNat then 1 else 0) ∧
      ∀ z, z ≠ x → z ≠ 15#4 → t.getV z = s.getV z)

/-- 42_load_and_alu.md section 3 (R138, R140): the two shifts of V[X] by one, for every value of the ignored Y. With X = 15 the result stays in VF, by the order that
is the spec's own decision D13 (log 13). -/
def Obligations.ShiftsByOne : Prop :=
  ∀ (x y : RegId) (s : State),
    (∃ t, exec (.shr x y) s = .next t ∧ t.result = some .cont ∧ t.pc = s.pc + 2#16 ∧ Frame { v := true } s t ∧
      (t.getV x).toNat = (s.getV x).toNat / 2 ∧ (x ≠ 15#4 → (t.getV 15#4).toNat = (s.getV x).toNat % 2) ∧
      ∀ z, z ≠ x → z ≠ 15#4 → t.getV z = s.getV z) ∧
    (∃ t, exec (.shl x y) s = .next t ∧ t.result = some .cont ∧ t.pc = s.pc + 2#16 ∧ Frame { v := true } s t ∧
      (t.getV x).toNat = 2 * (s.getV x).toNat % 256 ∧ (x ≠ 15#4 → (t.getV 15#4).toNat = (s.getV x).toNat / 128) ∧
      ∀ z, z ≠ x → z ≠ 15#4 → t.getV z = s.getV z)

/-- 42_load_and_alu.md section 4 (R141): the step's random byte masked by NN: the byte of the host's call where one is listed, else the free value. That the byte is an
input is the spec's own decision D16 (log 5). -/
def Obligations.RandomByteIsMasked : Prop :=
  ∀ (x : RegId) (nn : Byte) (s : State), ∃ t, exec (.rnd x nn) s = .next t ∧ t.result = some .cont ∧ t.pc = s.pc + 2#16 ∧ Frame { v := true } s t ∧
    (∀ c l, s.inputs = c :: l → t.getV x = c.rand &&& nn) ∧ (s.inputs = [] → t.getV x = Config.freeRand s.freeIndex &&& nn) ∧
    t.getV x &&& ~~~nn = 0#8 ∧ ∀ z, z ≠ x → t.getV z = s.getV z

/-! ### The address register and memory -/

/-- 43_index_and_memory.md R150: `I <- NNN`. -/
def Obligations.LoadAddressRegister : Prop :=
  ∀ (nnn : BitVec 12) (s : State), ∃ t, exec (.ldI nnn) s = .next t ∧ t.result = some .cont ∧ t.pc = s.pc + 2#16 ∧
    t.i.toNat = nnn.toNat ∧ Frame { i := true } s t

/-- 43_index_and_memory.md section 2 (R151): the sum and its flag, or `AddressOverflow` with nothing written. The thresholds are the spec's own decision D19 (log 16). -/
def Obligations.AddToAddressRegister : Prop :=
  ∀ (x : RegId) (s : State),
    (s.i.toNat + (s.getV x).toNat < 65536 → ∃ t, exec (.addI x) s = .next t ∧ t.result = some .cont ∧ t.pc = s.pc + 2#16 ∧
      t.i.toNat = s.i.toNat + (s.getV x).toNat ∧
      (t.getV 15#4).toNat = (if s.i.toNat + (s.getV x).toNat ≥ s.cfg.memSize then 1 else 0) ∧
      (∀ z, z ≠ 15#4 → t.getV z = s.getV z) ∧ Frame { v := true, i := true } s t) ∧
    (65536 ≤ s.i.toNat + (s.getV x).toNat →
      exec (.addI x) s = .next { s with status := .faulted .addressOverflow, result := some (.faulted .addressOverflow) })

/-- 43_index_and_memory.md section 2 (R152): `I <- 5 * V[X]`, unmasked, which is the spec's own decision D25 (log 22). -/
def Obligations.GlyphAddress : Prop :=
  ∀ (x : RegId) (s : State), ∃ t, exec (.ldFont x) s = .next t ∧ t.result = some .cont ∧ t.pc = s.pc + 2#16 ∧
    t.i.toNat = 5 * (s.getV x).toNat ∧ Frame { i := true } s t

/-- 43_index_and_memory.md section 3 (R153): the three decimal digits, most significant at the lowest address. The draw flag on a store is the spec's own decision D24
(log 21), and which addresses are writable rests on D4, D6 and D8. -/
def Obligations.BcdStoresDigits : Prop :=
  ∀ (x : RegId) (s : State), (∀ k, k < 3 → Writable s.cfg (s.i.toNat + k)) →
    ∃ t, exec (.ldBcd x) s = .next t ∧ t.result = some .cont ∧ t.pc = s.pc + 2#16 ∧
      (t.byteAt s.i.toNat).toNat = (s.getV x).toNat / 100 ∧
      (t.byteAt (s.i.toNat + 1)).toNat = (s.getV x).toNat / 10 % 10 ∧
      (t.byteAt (s.i.toNat + 2)).toNat = (s.getV x).toNat % 10 ∧
      (∀ a, a < s.i.toNat ∨ s.i.toNat + 3 ≤ a → t.byteAt a = s.byteAt a) ∧
      (t.drawFlag = true ↔ s.drawFlag = true ∨ ∃ k, k < 3 ∧ s.cfg.memSize - 256 ≤ s.i.toNat + k) ∧
      Frame { memory := true, drawFlag := true } s t

/-- 43_index_and_memory.md section 3 (R154): V0 to V[X] to memory at I, `I` kept. The draw flag on a store is the spec's own decision D24 (log 21), and which addresses
are writable rests on D4, D6 and D8. -/
def Obligations.StoreRegisterBlock : Prop :=
  ∀ (x : RegId) (s : State), (∀ k, k ≤ x.toNat → Writable s.cfg (s.i.toNat + k)) →
    ∃ t, exec (.storeRegs x) s = .next t ∧ t.result = some .cont ∧ t.pc = s.pc + 2#16 ∧
      (∀ z : RegId, z.toNat ≤ x.toNat → t.byteAt (s.i.toNat + z.toNat) = s.getV z) ∧
      (∀ a, a < s.i.toNat ∨ s.i.toNat + x.toNat < a → t.byteAt a = s.byteAt a) ∧
      (t.drawFlag = true ↔ s.drawFlag = true ∨ ∃ k, k ≤ x.toNat ∧ s.cfg.memSize - 256 ≤ s.i.toNat + k) ∧
      Frame { memory := true, drawFlag := true } s t

/-- 43_index_and_memory.md section 3 (R155): V0 to V[X] from memory at I, the registers above and `I` kept. Which addresses are readable rests on the spec's own
decisions D4 and D6 (log 19). -/
def Obligations.LoadRegisterBlock : Prop :=
  ∀ (x : RegId) (s : State), (∀ k, k ≤ x.toNat → Readable s.cfg (s.i.toNat + k)) →
    ∃ t, exec (.loadRegs x) s = .next t ∧ t.result = some .cont ∧ t.pc = s.pc + 2#16 ∧
      (∀ z : RegId, t.getV z = if z.toNat ≤ x.toNat then s.byteAt (s.i.toNat + z.toNat) else s.getV z) ∧
      Frame { v := true } s t

/-- 20_memory.md section 3 (R57), 60_exceptions.md section 4 (R219): a memory instruction with a forbidden address faults with the reason of its first one and changes
`status` alone. All of it is the spec's own decisions D6, D8, D20, D21 (logs 12, 19). -/
def Obligations.BlockAccessIsAllOrNothing : Prop :=
  ∀ (s : State) (k : Nat),
    (∀ x : RegId, (∀ j, j < k → Writable s.cfg (s.i.toNat + j)) → ¬Writable s.cfg (s.i.toNat + k) → k < 3 →
      exec (.ldBcd x) s = .next (s.raiseFault (writeReason s.cfg (s.i.toNat + k)))) ∧
    (∀ x : RegId, (∀ j, j < k → Writable s.cfg (s.i.toNat + j)) → ¬Writable s.cfg (s.i.toNat + k) → k ≤ x.toNat →
      exec (.storeRegs x) s = .next (s.raiseFault (writeReason s.cfg (s.i.toNat + k)))) ∧
    (∀ x : RegId, (∀ j, j < k → Readable s.cfg (s.i.toNat + j)) → ¬Readable s.cfg (s.i.toNat + k) → k ≤ x.toNat →
      exec (.loadRegs x) s = .next (s.raiseFault (readReason s.cfg (s.i.toNat + k)))) ∧
    (∀ (x y : RegId) (n : BitVec 4), (∀ j, j < k → Readable s.cfg (s.i.toNat + j)) → ¬Readable s.cfg (s.i.toNat + k) → k < n.toNat →
      exec (.drw x y n) s = .next (s.raiseFault (readReason s.cfg (s.i.toNat + k)))) ∧
    ∀ r, s.raiseFault r = { s with status := .faulted r, result := some (.faulted r) }

/-- 60_exceptions.md R214: a fetch is out of bounds exactly where `pc + 1` is at or past `MEM_SIZE`, a data access exactly where its address is. -/
def Obligations.OutOfBoundsExactlyPastMemory : Prop :=
  ∀ (s : State) (a : Nat) (b : Byte),
    (s.fetch = .error .outOfBounds ↔ s.cfg.memSize ≤ s.pc.toNat + 1) ∧
    (s.memRead a = .error .outOfBounds ↔ s.cfg.memSize ≤ a) ∧
    (s.memWrite a b = .error .outOfBounds ↔ s.cfg.memSize ≤ a)

/-! ### Display -/

/-- 44_display.md R170: all 256 framebuffer bytes become 0 and the flag is set, whatever the screen held; nothing else changes. -/
def Obligations.ClearScreen : Prop :=
  ∀ s : State, s.cfg.Legal →
    ∃ t, exec .cls s = .next t ∧ t.result = some .cont ∧ t.pc = s.pc + 2#16 ∧ t.drawFlag = true ∧
      (∀ a, s.cfg.memSize - 256 ≤ a → a < s.cfg.memSize → t.byteAt a = 0#8) ∧
      (∀ col row, col < 64 → row < 32 → t.isPixelSet col row = false) ∧
      (∀ a, a < s.cfg.memSize - 256 → t.byteAt a = s.byteAt a) ∧ Frame { memory := true, drawFlag := true } s t

/-- 44_display.md section 2 (R171): which pixels flip, what VF and the flag become, and that no byte outside the framebuffer changes, for every position and row count.
The unreduced origin, the bit order of a sprite byte and the reading of clipped rows are the spec's own decision D23 (log 18). -/
def Obligations.DrawFlipsCoveredPixels : Prop :=
  ∀ (x y : RegId) (n : BitVec 4) (s : State), s.cfg.Legal → (∀ k, k < n.toNat → Readable s.cfg (s.i.toNat + k)) →
    ∃ t, exec (.drw x y n) s = .next t ∧ t.result = some .cont ∧ t.pc = s.pc + 2#16 ∧ t.drawFlag = true ∧
      (∀ col row, col < 64 → row < 32 →
        (t.isPixelSet col row ≠ s.isPixelSet col row ↔ s.spriteCovers (s.getV x).toNat (s.getV y).toNat n.toNat col row)) ∧
      ((t.getV 15#4).toNat = 0 ∨ (t.getV 15#4).toNat = 1) ∧
      ((t.getV 15#4).toNat = 1 ↔ ∃ col row, col < 64 ∧ row < 32 ∧ s.isPixelSet col row = true ∧ t.isPixelSet col row = false) ∧
      (∀ z, z ≠ 15#4 → t.getV z = s.getV z) ∧
      (∀ a, a < s.cfg.memSize - 256 ∨ s.cfg.memSize ≤ a → t.byteAt a = s.byteAt a) ∧
      Frame { v := true, memory := true, drawFlag := true } s t

/-- 44_display.md section 3 (R172 (a), derived by the spec): the same sprite drawn twice at the same place leaves every byte of memory as it was, and the second draw
reports a collision exactly where the first turned some pixel on. The coordinates come from registers other than VF and the sprite lies outside the
framebuffer, so that the second draw is of the same sprite at the same place. -/
def Obligations.DrawTwiceRestoresScreen : Prop :=
  ∀ (x y : RegId) (n : BitVec 4) (s t u : State), s.cfg.Legal → x ≠ 15#4 → y ≠ 15#4 →
    (∀ k, k < n.toNat → Readable s.cfg (s.i.toNat + k) ∧ s.i.toNat + k < s.cfg.memSize - 256) →
    exec (.drw x y n) s = .next t → exec (.drw x y n) t = .next u →
    (∀ a, u.byteAt a = s.byteAt a) ∧
    ((u.getV 15#4).toNat = 1 ↔ ∃ col row, col < 64 ∧ row < 32 ∧ s.isPixelSet col row = false ∧ t.isPixelSet col row = true)

/-- 60_exceptions.md R230: the snapshot's entry for (col, row) is bit `7 - (col mod 8)` of framebuffer byte `row * 8 + col div 8`. -/
def Obligations.SnapshotShowsFramebuffer : Prop :=
  ∀ (s : State) (col row : Nat), col < 64 → row < 32 →
    (s.framebufferSnapshot[row]?.bind fun l => l[col]?) =
      some ((s.byteAt (s.cfg.memSize - 256 + row * 8 + col / 8)).getLsbD (7 - col % 8))

/-! ### Timers, keys and the host -/

/-- 45_timers_and_keys.md R190 to R192: read `delay`, write `delay`, write `sound`; each before the tick of its own step. -/
def Obligations.TimerInstructions : Prop :=
  ∀ (x : RegId) (s : State),
    (∃ t, exec (.ldVxDt x) s = .next t ∧ t.result = some .cont ∧ t.pc = s.pc + 2#16 ∧ t.getV x = s.delay ∧
      (∀ z, z ≠ x → t.getV z = s.getV z) ∧ Frame { v := true } s t) ∧
    (∃ t, exec (.ldDtVx x) s = .next t ∧ t.result = some .cont ∧ t.pc = s.pc + 2#16 ∧ t.delay = s.getV x ∧ Frame { delay := true } s t) ∧
    (∃ t, exec (.ldStVx x) s = .next t ∧ t.result = some .cont ∧ t.pc = s.pc + 2#16 ∧ t.sound = s.getV x ∧ Frame { sound := true } s t)

/-- 45_timers_and_keys.md section 3 (R193, R194): the key skips. A call with no key map has no key down; a register of 16 or more names no key. Both are the spec's own
decision D17 (logs 4, 15). -/
def Obligations.KeySkips : Prop :=
  ∀ (x : RegId) (s : State),
    (s.keyDown (s.getV x).toNat →
      (∃ t, exec (.skp x) s = .next t ∧ t.result = some .cont ∧ t.pc = s.pc + 4#16 ∧ Frame {} s t) ∧
      (∃ t, exec (.sknp x) s = .next t ∧ t.result = some .cont ∧ t.pc = s.pc + 2#16 ∧ Frame {} s t)) ∧
    (¬s.keyDown (s.getV x).toNat →
      (∃ t, exec (.skp x) s = .next t ∧ t.result = some .cont ∧ t.pc = s.pc + 2#16 ∧ Frame {} s t) ∧
      (∃ t, exec (.sknp x) s = .next t ∧ t.result = some .cont ∧ t.pc = s.pc + 4#16 ∧ Frame {} s t))

/-- 45_timers_and_keys.md section 3 (R195): with a key down FX0A loads the least one; with none nothing changes and the result is `AwaitingKey`. Level-sensitivity, the
least key and that a wait changes nothing at all are the spec's own decisions D18 and D27 (logs 14, 17). -/
def Obligations.KeyWait : Prop :=
  ∀ (x : RegId) (s : State),
    (∀ k : Nat, s.keyDown k → (∀ j, j < k → ¬s.keyDown j) →
      ∃ t, exec (.ldVxK x) s = .next t ∧ t.result = some .cont ∧ t.pc = s.pc + 2#16 ∧ (t.getV x).toNat = k ∧
        (∀ z, z ≠ x → t.getV z = s.getV z) ∧ Frame { v := true } s t) ∧
    ((∀ k : Nat, ¬s.keyDown k) → exec (.ldVxK x) s = .next { s with result := some .awaitingKey })

/-- 60_exceptions.md R233: `draw_flag_and_clear()` returns the flag, then clears it, and touches nothing else; no step and no `tick_timers()` clears it. -/
def Obligations.DrawFlagReadThenClear : Prop :=
  ∀ s : State, s.drawFlagAndClear = (s.drawFlag, { s with drawFlag := false }) ∧
    (s.drawFlagAndClear.2.drawFlagAndClear).1 = false ∧ Frame { drawFlag := true } s s.drawFlagAndClear.2 ∧
    (∀ t : State, s.drawFlag = true → step s = .next t → t.drawFlag = true) ∧ (s.drawFlag = true → s.tickTimers.drawFlag = true)

/-- 60_exceptions.md section 8 (R229): `tick_timers()` counts both timers down by one, with floor 0, in any status, and does nothing else. The operation is the spec's own
decision D2. -/
def Obligations.TickTimersCountsDown : Prop :=
  ∀ s : State, s.tickTimers.delay.toNat = s.delay.toNat - 1 ∧ s.tickTimers.sound.toNat = s.sound.toNat - 1 ∧
    s.tickTimers.pc = s.pc ∧ s.tickTimers.result = s.result ∧ Frame { delay := true, sound := true } s s.tickTimers

/-- 60_exceptions.md section 9 (R235): `run_to_completion` answers the state after the first step whose result is `Halted` or `Faulted`, and does answer it when its bound
on the number of steps (the model's own, log 29) is not reached before. -/
def Obligations.RunStopsAtFirstTerminalResult : Prop :=
  ∀ (fuel : Nat) (s t : State), runToCompletion fuel s = some t ↔
    ∃ n, n < fuel ∧ Host.Core.run Sys2Proof.core (n + 1) s = .next t ∧ t.status ≠ .running ∧
      ∀ m, m < n → ∃ u, Host.Core.run Sys2Proof.core (m + 1) s = .next u ∧ u.status = .running
end

