-- ==== Sys2Proof/Laws/State.lean ====
section
/-! SUPPORT. What each update of the state leaves in each field: one lemma per field per update, all by definition. -/

namespace Sys2Proof.Machine

variable (s : State)

@[simp] theorem State.setByte_v (a : Nat) (b : Byte) : (s.setByte a b).v = s.v := rfl
@[simp] theorem State.setByte_i (a : Nat) (b : Byte) : (s.setByte a b).i = s.i := rfl
@[simp] theorem State.setByte_pc (a : Nat) (b : Byte) : (s.setByte a b).pc = s.pc := rfl
@[simp] theorem State.setByte_stack (a : Nat) (b : Byte) : (s.setByte a b).stack = s.stack := rfl
@[simp] theorem State.setByte_sp (a : Nat) (b : Byte) : (s.setByte a b).sp = s.sp := rfl
@[simp] theorem State.setByte_delay (a : Nat) (b : Byte) : (s.setByte a b).delay = s.delay := rfl
@[simp] theorem State.setByte_sound (a : Nat) (b : Byte) : (s.setByte a b).sound = s.sound := rfl
@[simp] theorem State.setByte_drawFlag (a : Nat) (b : Byte) : (s.setByte a b).drawFlag = s.drawFlag := rfl
@[simp] theorem State.setByte_status (a : Nat) (b : Byte) : (s.setByte a b).status = s.status := rfl
@[simp] theorem State.setByte_cfg (a : Nat) (b : Byte) : (s.setByte a b).cfg = s.cfg := rfl
@[simp] theorem State.setByte_inputs (a : Nat) (b : Byte) : (s.setByte a b).inputs = s.inputs := rfl
@[simp] theorem State.setByte_freeIndex (a : Nat) (b : Byte) : (s.setByte a b).freeIndex = s.freeIndex := rfl
@[simp] theorem State.setByte_result (a : Nat) (b : Byte) : (s.setByte a b).result = s.result := rfl
@[simp] theorem State.setByte_getV (a : Nat) (b : Byte) (z : RegId) : (s.setByte a b).getV z = s.getV z := rfl

@[simp] theorem State.setV_i (x : RegId) (b : Byte) : (s.setV x b).i = s.i := rfl
@[simp] theorem State.setV_pc (x : RegId) (b : Byte) : (s.setV x b).pc = s.pc := rfl
@[simp] theorem State.setV_stack (x : RegId) (b : Byte) : (s.setV x b).stack = s.stack := rfl
@[simp] theorem State.setV_sp (x : RegId) (b : Byte) : (s.setV x b).sp = s.sp := rfl
@[simp] theorem State.setV_delay (x : RegId) (b : Byte) : (s.setV x b).delay = s.delay := rfl
@[simp] theorem State.setV_sound (x : RegId) (b : Byte) : (s.setV x b).sound = s.sound := rfl
@[simp] theorem State.setV_drawFlag (x : RegId) (b : Byte) : (s.setV x b).drawFlag = s.drawFlag := rfl
@[simp] theorem State.setV_status (x : RegId) (b : Byte) : (s.setV x b).status = s.status := rfl
@[simp] theorem State.setV_mem (x : RegId) (b : Byte) : (s.setV x b).mem = s.mem := rfl
@[simp] theorem State.setV_cfg (x : RegId) (b : Byte) : (s.setV x b).cfg = s.cfg := rfl
@[simp] theorem State.setV_inputs (x : RegId) (b : Byte) : (s.setV x b).inputs = s.inputs := rfl
@[simp] theorem State.setV_freeIndex (x : RegId) (b : Byte) : (s.setV x b).freeIndex = s.freeIndex := rfl
@[simp] theorem State.setV_result (x : RegId) (b : Byte) : (s.setV x b).result = s.result := rfl
@[simp] theorem State.setV_byteAt (x : RegId) (b : Byte) (p : Nat) : (s.setV x b).byteAt p = s.byteAt p := rfl

@[simp] theorem State.setI_v (a : Word) : (s.setI a).v = s.v := rfl
@[simp] theorem State.setI_i (a : Word) : (s.setI a).i = a := rfl
@[simp] theorem State.setI_pc (a : Word) : (s.setI a).pc = s.pc := rfl
@[simp] theorem State.setI_stack (a : Word) : (s.setI a).stack = s.stack := rfl
@[simp] theorem State.setI_sp (a : Word) : (s.setI a).sp = s.sp := rfl
@[simp] theorem State.setI_delay (a : Word) : (s.setI a).delay = s.delay := rfl
@[simp] theorem State.setI_sound (a : Word) : (s.setI a).sound = s.sound := rfl
@[simp] theorem State.setI_drawFlag (a : Word) : (s.setI a).drawFlag = s.drawFlag := rfl
@[simp] theorem State.setI_status (a : Word) : (s.setI a).status = s.status := rfl
@[simp] theorem State.setI_mem (a : Word) : (s.setI a).mem = s.mem := rfl
@[simp] theorem State.setI_cfg (a : Word) : (s.setI a).cfg = s.cfg := rfl
@[simp] theorem State.setI_inputs (a : Word) : (s.setI a).inputs = s.inputs := rfl
@[simp] theorem State.setI_freeIndex (a : Word) : (s.setI a).freeIndex = s.freeIndex := rfl
@[simp] theorem State.setI_result (a : Word) : (s.setI a).result = s.result := rfl
@[simp] theorem State.setI_getV (a : Word) (z : RegId) : (s.setI a).getV z = s.getV z := rfl
@[simp] theorem State.setI_byteAt (a : Word) (p : Nat) : (s.setI a).byteAt p = s.byteAt p := rfl

@[simp] theorem State.setPc_v (a : Word) : (s.setPc a).v = s.v := rfl
@[simp] theorem State.setPc_i (a : Word) : (s.setPc a).i = s.i := rfl
@[simp] theorem State.setPc_pc (a : Word) : (s.setPc a).pc = a := rfl
@[simp] theorem State.setPc_stack (a : Word) : (s.setPc a).stack = s.stack := rfl
@[simp] theorem State.setPc_sp (a : Word) : (s.setPc a).sp = s.sp := rfl
@[simp] theorem State.setPc_delay (a : Word) : (s.setPc a).delay = s.delay := rfl
@[simp] theorem State.setPc_sound (a : Word) : (s.setPc a).sound = s.sound := rfl
@[simp] theorem State.setPc_drawFlag (a : Word) : (s.setPc a).drawFlag = s.drawFlag := rfl
@[simp] theorem State.setPc_status (a : Word) : (s.setPc a).status = s.status := rfl
@[simp] theorem State.setPc_mem (a : Word) : (s.setPc a).mem = s.mem := rfl
@[simp] theorem State.setPc_cfg (a : Word) : (s.setPc a).cfg = s.cfg := rfl
@[simp] theorem State.setPc_inputs (a : Word) : (s.setPc a).inputs = s.inputs := rfl
@[simp] theorem State.setPc_freeIndex (a : Word) : (s.setPc a).freeIndex = s.freeIndex := rfl
@[simp] theorem State.setPc_result (a : Word) : (s.setPc a).result = s.result := rfl
@[simp] theorem State.setPc_getV (a : Word) (z : RegId) : (s.setPc a).getV z = s.getV z := rfl
@[simp] theorem State.setPc_byteAt (a : Word) (p : Nat) : (s.setPc a).byteAt p = s.byteAt p := rfl

@[simp] theorem State.advance_v : (s.advance).v = s.v := rfl
@[simp] theorem State.advance_i : (s.advance).i = s.i := rfl
@[simp] theorem State.advance_pc : (s.advance).pc = s.pc + 2#16 := rfl
@[simp] theorem State.advance_stack : (s.advance).stack = s.stack := rfl
@[simp] theorem State.advance_sp : (s.advance).sp = s.sp := rfl
@[simp] theorem State.advance_delay : (s.advance).delay = s.delay := rfl
@[simp] theorem State.advance_sound : (s.advance).sound = s.sound := rfl
@[simp] theorem State.advance_drawFlag : (s.advance).drawFlag = s.drawFlag := rfl
@[simp] theorem State.advance_status : (s.advance).status = s.status := rfl
@[simp] theorem State.advance_mem : (s.advance).mem = s.mem := rfl
@[simp] theorem State.advance_cfg : (s.advance).cfg = s.cfg := rfl
@[simp] theorem State.advance_inputs : (s.advance).inputs = s.inputs := rfl
@[simp] theorem State.advance_freeIndex : (s.advance).freeIndex = s.freeIndex := rfl
@[simp] theorem State.advance_result : (s.advance).result = s.result := rfl
@[simp] theorem State.advance_getV (z : RegId) : (s.advance).getV z = s.getV z := rfl
@[simp] theorem State.advance_byteAt (p : Nat) : (s.advance).byteAt p = s.byteAt p := rfl

@[simp] theorem State.skipIf_v (c : Bool) : (s.skipIf c).v = s.v := rfl
@[simp] theorem State.skipIf_i (c : Bool) : (s.skipIf c).i = s.i := rfl
@[simp] theorem State.skipIf_pc (c : Bool) : (s.skipIf c).pc = if c then s.pc + 4#16 else s.pc + 2#16 := rfl
@[simp] theorem State.skipIf_stack (c : Bool) : (s.skipIf c).stack = s.stack := rfl
@[simp] theorem State.skipIf_sp (c : Bool) : (s.skipIf c).sp = s.sp := rfl
@[simp] theorem State.skipIf_delay (c : Bool) : (s.skipIf c).delay = s.delay := rfl
@[simp] theorem State.skipIf_sound (c : Bool) : (s.skipIf c).sound = s.sound := rfl
@[simp] theorem State.skipIf_drawFlag (c : Bool) : (s.skipIf c).drawFlag = s.drawFlag := rfl
@[simp] theorem State.skipIf_status (c : Bool) : (s.skipIf c).status = s.status := rfl
@[simp] theorem State.skipIf_mem (c : Bool) : (s.skipIf c).mem = s.mem := rfl
@[simp] theorem State.skipIf_cfg (c : Bool) : (s.skipIf c).cfg = s.cfg := rfl
@[simp] theorem State.skipIf_inputs (c : Bool) : (s.skipIf c).inputs = s.inputs := rfl
@[simp] theorem State.skipIf_freeIndex (c : Bool) : (s.skipIf c).freeIndex = s.freeIndex := rfl
@[simp] theorem State.skipIf_result (c : Bool) : (s.skipIf c).result = s.result := rfl
@[simp] theorem State.skipIf_getV (c : Bool) (z : RegId) : (s.skipIf c).getV z = s.getV z := rfl
@[simp] theorem State.skipIf_byteAt (c : Bool) (p : Nat) : (s.skipIf c).byteAt p = s.byteAt p := rfl

@[simp] theorem State.setDelay_v (b : Byte) : (s.setDelay b).v = s.v := rfl
@[simp] theorem State.setDelay_i (b : Byte) : (s.setDelay b).i = s.i := rfl
@[simp] theorem State.setDelay_pc (b : Byte) : (s.setDelay b).pc = s.pc := rfl
@[simp] theorem State.setDelay_stack (b : Byte) : (s.setDelay b).stack = s.stack := rfl
@[simp] theorem State.setDelay_sp (b : Byte) : (s.setDelay b).sp = s.sp := rfl
@[simp] theorem State.setDelay_delay (b : Byte) : (s.setDelay b).delay = b := rfl
@[simp] theorem State.setDelay_sound (b : Byte) : (s.setDelay b).sound = s.sound := rfl
@[simp] theorem State.setDelay_drawFlag (b : Byte) : (s.setDelay b).drawFlag = s.drawFlag := rfl
@[simp] theorem State.setDelay_status (b : Byte) : (s.setDelay b).status = s.status := rfl
@[simp] theorem State.setDelay_mem (b : Byte) : (s.setDelay b).mem = s.mem := rfl
@[simp] theorem State.setDelay_cfg (b : Byte) : (s.setDelay b).cfg = s.cfg := rfl
@[simp] theorem State.setDelay_inputs (b : Byte) : (s.setDelay b).inputs = s.inputs := rfl
@[simp] theorem State.setDelay_freeIndex (b : Byte) : (s.setDelay b).freeIndex = s.freeIndex := rfl
@[simp] theorem State.setDelay_result (b : Byte) : (s.setDelay b).result = s.result := rfl
@[simp] theorem State.setDelay_getV (b : Byte) (z : RegId) : (s.setDelay b).getV z = s.getV z := rfl
@[simp] theorem State.setDelay_byteAt (b : Byte) (p : Nat) : (s.setDelay b).byteAt p = s.byteAt p := rfl

@[simp] theorem State.setSound_v (b : Byte) : (s.setSound b).v = s.v := rfl
@[simp] theorem State.setSound_i (b : Byte) : (s.setSound b).i = s.i := rfl
@[simp] theorem State.setSound_pc (b : Byte) : (s.setSound b).pc = s.pc := rfl
@[simp] theorem State.setSound_stack (b : Byte) : (s.setSound b).stack = s.stack := rfl
@[simp] theorem State.setSound_sp (b : Byte) : (s.setSound b).sp = s.sp := rfl
@[simp] theorem State.setSound_delay (b : Byte) : (s.setSound b).delay = s.delay := rfl
@[simp] theorem State.setSound_sound (b : Byte) : (s.setSound b).sound = b := rfl
@[simp] theorem State.setSound_drawFlag (b : Byte) : (s.setSound b).drawFlag = s.drawFlag := rfl
@[simp] theorem State.setSound_status (b : Byte) : (s.setSound b).status = s.status := rfl
@[simp] theorem State.setSound_mem (b : Byte) : (s.setSound b).mem = s.mem := rfl
@[simp] theorem State.setSound_cfg (b : Byte) : (s.setSound b).cfg = s.cfg := rfl
@[simp] theorem State.setSound_inputs (b : Byte) : (s.setSound b).inputs = s.inputs := rfl
@[simp] theorem State.setSound_freeIndex (b : Byte) : (s.setSound b).freeIndex = s.freeIndex := rfl
@[simp] theorem State.setSound_result (b : Byte) : (s.setSound b).result = s.result := rfl
@[simp] theorem State.setSound_getV (b : Byte) (z : RegId) : (s.setSound b).getV z = s.getV z := rfl
@[simp] theorem State.setSound_byteAt (b : Byte) (p : Nat) : (s.setSound b).byteAt p = s.byteAt p := rfl

@[simp] theorem State.setDrawFlag_v (d : Bool) : (s.setDrawFlag d).v = s.v := rfl
@[simp] theorem State.setDrawFlag_i (d : Bool) : (s.setDrawFlag d).i = s.i := rfl
@[simp] theorem State.setDrawFlag_pc (d : Bool) : (s.setDrawFlag d).pc = s.pc := rfl
@[simp] theorem State.setDrawFlag_stack (d : Bool) : (s.setDrawFlag d).stack = s.stack := rfl
@[simp] theorem State.setDrawFlag_sp (d : Bool) : (s.setDrawFlag d).sp = s.sp := rfl
@[simp] theorem State.setDrawFlag_delay (d : Bool) : (s.setDrawFlag d).delay = s.delay := rfl
@[simp] theorem State.setDrawFlag_sound (d : Bool) : (s.setDrawFlag d).sound = s.sound := rfl
@[simp] theorem State.setDrawFlag_drawFlag (d : Bool) : (s.setDrawFlag d).drawFlag = d := rfl
@[simp] theorem State.setDrawFlag_status (d : Bool) : (s.setDrawFlag d).status = s.status := rfl
@[simp] theorem State.setDrawFlag_mem (d : Bool) : (s.setDrawFlag d).mem = s.mem := rfl
@[simp] theorem State.setDrawFlag_cfg (d : Bool) : (s.setDrawFlag d).cfg = s.cfg := rfl
@[simp] theorem State.setDrawFlag_inputs (d : Bool) : (s.setDrawFlag d).inputs = s.inputs := rfl
@[simp] theorem State.setDrawFlag_freeIndex (d : Bool) : (s.setDrawFlag d).freeIndex = s.freeIndex := rfl
@[simp] theorem State.setDrawFlag_result (d : Bool) : (s.setDrawFlag d).result = s.result := rfl
@[simp] theorem State.setDrawFlag_getV (d : Bool) (z : RegId) : (s.setDrawFlag d).getV z = s.getV z := rfl
@[simp] theorem State.setDrawFlag_byteAt (d : Bool) (p : Nat) : (s.setDrawFlag d).byteAt p = s.byteAt p := rfl

@[simp] theorem State.setFlagThen_i (f : Byte) (x : RegId) (b : Byte) : (s.setFlagThen f x b).i = s.i := rfl
@[simp] theorem State.setFlagThen_pc (f : Byte) (x : RegId) (b : Byte) : (s.setFlagThen f x b).pc = s.pc := rfl
@[simp] theorem State.setFlagThen_stack (f : Byte) (x : RegId) (b : Byte) : (s.setFlagThen f x b).stack = s.stack := rfl
@[simp] theorem State.setFlagThen_sp (f : Byte) (x : RegId) (b : Byte) : (s.setFlagThen f x b).sp = s.sp := rfl
@[simp] theorem State.setFlagThen_delay (f : Byte) (x : RegId) (b : Byte) : (s.setFlagThen f x b).delay = s.delay := rfl
@[simp] theorem State.setFlagThen_sound (f : Byte) (x : RegId) (b : Byte) : (s.setFlagThen f x b).sound = s.sound := rfl
@[simp] theorem State.setFlagThen_drawFlag (f : Byte) (x : RegId) (b : Byte) : (s.setFlagThen f x b).drawFlag = s.drawFlag := rfl
@[simp] theorem State.setFlagThen_status (f : Byte) (x : RegId) (b : Byte) : (s.setFlagThen f x b).status = s.status := rfl
@[simp] theorem State.setFlagThen_mem (f : Byte) (x : RegId) (b : Byte) : (s.setFlagThen f x b).mem = s.mem := rfl
@[simp] theorem State.setFlagThen_cfg (f : Byte) (x : RegId) (b : Byte) : (s.setFlagThen f x b).cfg = s.cfg := rfl
@[simp] theorem State.setFlagThen_inputs (f : Byte) (x : RegId) (b : Byte) : (s.setFlagThen f x b).inputs = s.inputs := rfl
@[simp] theorem State.setFlagThen_freeIndex (f : Byte) (x : RegId) (b : Byte) : (s.setFlagThen f x b).freeIndex = s.freeIndex := rfl
@[simp] theorem State.setFlagThen_result (f : Byte) (x : RegId) (b : Byte) : (s.setFlagThen f x b).result = s.result := rfl
@[simp] theorem State.setFlagThen_byteAt (f : Byte) (x : RegId) (b : Byte) (p : Nat) : (s.setFlagThen f x b).byteAt p = s.byteAt p := rfl

@[simp] theorem State.loadFirstRegs_i (x : RegId) (bs : List Byte) : (s.loadFirstRegs x bs).i = s.i := rfl
@[simp] theorem State.loadFirstRegs_pc (x : RegId) (bs : List Byte) : (s.loadFirstRegs x bs).pc = s.pc := rfl
@[simp] theorem State.loadFirstRegs_stack (x : RegId) (bs : List Byte) : (s.loadFirstRegs x bs).stack = s.stack := rfl
@[simp] theorem State.loadFirstRegs_sp (x : RegId) (bs : List Byte) : (s.loadFirstRegs x bs).sp = s.sp := rfl
@[simp] theorem State.loadFirstRegs_delay (x : RegId) (bs : List Byte) : (s.loadFirstRegs x bs).delay = s.delay := rfl
@[simp] theorem State.loadFirstRegs_sound (x : RegId) (bs : List Byte) : (s.loadFirstRegs x bs).sound = s.sound := rfl
@[simp] theorem State.loadFirstRegs_drawFlag (x : RegId) (bs : List Byte) : (s.loadFirstRegs x bs).drawFlag = s.drawFlag := rfl
@[simp] theorem State.loadFirstRegs_status (x : RegId) (bs : List Byte) : (s.loadFirstRegs x bs).status = s.status := rfl
@[simp] theorem State.loadFirstRegs_mem (x : RegId) (bs : List Byte) : (s.loadFirstRegs x bs).mem = s.mem := rfl
@[simp] theorem State.loadFirstRegs_cfg (x : RegId) (bs : List Byte) : (s.loadFirstRegs x bs).cfg = s.cfg := rfl
@[simp] theorem State.loadFirstRegs_inputs (x : RegId) (bs : List Byte) : (s.loadFirstRegs x bs).inputs = s.inputs := rfl
@[simp] theorem State.loadFirstRegs_freeIndex (x : RegId) (bs : List Byte) : (s.loadFirstRegs x bs).freeIndex = s.freeIndex := rfl
@[simp] theorem State.loadFirstRegs_result (x : RegId) (bs : List Byte) : (s.loadFirstRegs x bs).result = s.result := rfl
@[simp] theorem State.loadFirstRegs_byteAt (x : RegId) (bs : List Byte) (p : Nat) : (s.loadFirstRegs x bs).byteAt p = s.byteAt p := rfl

@[simp] theorem State.pixelSet_v (col row : Nat) (b : Bool) : (s.pixelSet col row b).v = s.v := rfl
@[simp] theorem State.pixelSet_i (col row : Nat) (b : Bool) : (s.pixelSet col row b).i = s.i := rfl
@[simp] theorem State.pixelSet_pc (col row : Nat) (b : Bool) : (s.pixelSet col row b).pc = s.pc := rfl
@[simp] theorem State.pixelSet_stack (col row : Nat) (b : Bool) : (s.pixelSet col row b).stack = s.stack := rfl
@[simp] theorem State.pixelSet_sp (col row : Nat) (b : Bool) : (s.pixelSet col row b).sp = s.sp := rfl
@[simp] theorem State.pixelSet_delay (col row : Nat) (b : Bool) : (s.pixelSet col row b).delay = s.delay := rfl
@[simp] theorem State.pixelSet_sound (col row : Nat) (b : Bool) : (s.pixelSet col row b).sound = s.sound := rfl
@[simp] theorem State.pixelSet_drawFlag (col row : Nat) (b : Bool) : (s.pixelSet col row b).drawFlag = s.drawFlag := rfl
@[simp] theorem State.pixelSet_status (col row : Nat) (b : Bool) : (s.pixelSet col row b).status = s.status := rfl
@[simp] theorem State.pixelSet_cfg (col row : Nat) (b : Bool) : (s.pixelSet col row b).cfg = s.cfg := rfl
@[simp] theorem State.pixelSet_inputs (col row : Nat) (b : Bool) : (s.pixelSet col row b).inputs = s.inputs := rfl
@[simp] theorem State.pixelSet_freeIndex (col row : Nat) (b : Bool) : (s.pixelSet col row b).freeIndex = s.freeIndex := rfl
@[simp] theorem State.pixelSet_result (col row : Nat) (b : Bool) : (s.pixelSet col row b).result = s.result := rfl
@[simp] theorem State.pixelSet_getV (col row : Nat) (b : Bool) (z : RegId) : (s.pixelSet col row b).getV z = s.getV z := rfl

@[simp] theorem State.pixelFlip_v (col row : Nat) : (s.pixelFlip col row).v = s.v := rfl
@[simp] theorem State.pixelFlip_i (col row : Nat) : (s.pixelFlip col row).i = s.i := rfl
@[simp] theorem State.pixelFlip_pc (col row : Nat) : (s.pixelFlip col row).pc = s.pc := rfl
@[simp] theorem State.pixelFlip_stack (col row : Nat) : (s.pixelFlip col row).stack = s.stack := rfl
@[simp] theorem State.pixelFlip_sp (col row : Nat) : (s.pixelFlip col row).sp = s.sp := rfl
@[simp] theorem State.pixelFlip_delay (col row : Nat) : (s.pixelFlip col row).delay = s.delay := rfl
@[simp] theorem State.pixelFlip_sound (col row : Nat) : (s.pixelFlip col row).sound = s.sound := rfl
@[simp] theorem State.pixelFlip_drawFlag (col row : Nat) : (s.pixelFlip col row).drawFlag = s.drawFlag := rfl
@[simp] theorem State.pixelFlip_status (col row : Nat) : (s.pixelFlip col row).status = s.status := rfl
@[simp] theorem State.pixelFlip_cfg (col row : Nat) : (s.pixelFlip col row).cfg = s.cfg := rfl
@[simp] theorem State.pixelFlip_inputs (col row : Nat) : (s.pixelFlip col row).inputs = s.inputs := rfl
@[simp] theorem State.pixelFlip_freeIndex (col row : Nat) : (s.pixelFlip col row).freeIndex = s.freeIndex := rfl
@[simp] theorem State.pixelFlip_result (col row : Nat) : (s.pixelFlip col row).result = s.result := rfl
@[simp] theorem State.pixelFlip_getV (col row : Nat) (z : RegId) : (s.pixelFlip col row).getV z = s.getV z := rfl

@[simp] theorem State.clearDisplay_v : (s.clearDisplay).v = s.v := rfl
@[simp] theorem State.clearDisplay_i : (s.clearDisplay).i = s.i := rfl
@[simp] theorem State.clearDisplay_pc : (s.clearDisplay).pc = s.pc := rfl
@[simp] theorem State.clearDisplay_stack : (s.clearDisplay).stack = s.stack := rfl
@[simp] theorem State.clearDisplay_sp : (s.clearDisplay).sp = s.sp := rfl
@[simp] theorem State.clearDisplay_delay : (s.clearDisplay).delay = s.delay := rfl
@[simp] theorem State.clearDisplay_sound : (s.clearDisplay).sound = s.sound := rfl
@[simp] theorem State.clearDisplay_drawFlag : (s.clearDisplay).drawFlag = s.drawFlag := rfl
@[simp] theorem State.clearDisplay_status : (s.clearDisplay).status = s.status := rfl
@[simp] theorem State.clearDisplay_cfg : (s.clearDisplay).cfg = s.cfg := rfl
@[simp] theorem State.clearDisplay_inputs : (s.clearDisplay).inputs = s.inputs := rfl
@[simp] theorem State.clearDisplay_freeIndex : (s.clearDisplay).freeIndex = s.freeIndex := rfl
@[simp] theorem State.clearDisplay_result : (s.clearDisplay).result = s.result := rfl
@[simp] theorem State.clearDisplay_getV (z : RegId) : (s.clearDisplay).getV z = s.getV z := rfl

@[simp] theorem State.complete_v : (s.complete).v = s.v := rfl
@[simp] theorem State.complete_i : (s.complete).i = s.i := rfl
@[simp] theorem State.complete_pc : (s.complete).pc = s.pc := rfl
@[simp] theorem State.complete_stack : (s.complete).stack = s.stack := rfl
@[simp] theorem State.complete_sp : (s.complete).sp = s.sp := rfl
@[simp] theorem State.complete_delay : (s.complete).delay = s.delay := rfl
@[simp] theorem State.complete_sound : (s.complete).sound = s.sound := rfl
@[simp] theorem State.complete_drawFlag : (s.complete).drawFlag = s.drawFlag := rfl
@[simp] theorem State.complete_status : (s.complete).status = s.status := rfl
@[simp] theorem State.complete_mem : (s.complete).mem = s.mem := rfl
@[simp] theorem State.complete_cfg : (s.complete).cfg = s.cfg := rfl
@[simp] theorem State.complete_inputs : (s.complete).inputs = s.inputs := rfl
@[simp] theorem State.complete_freeIndex : (s.complete).freeIndex = s.freeIndex := rfl
@[simp] theorem State.complete_result : (s.complete).result = some .cont := rfl
@[simp] theorem State.complete_getV (z : RegId) : (s.complete).getV z = s.getV z := rfl
@[simp] theorem State.complete_byteAt (p : Nat) : (s.complete).byteAt p = s.byteAt p := rfl

@[simp] theorem State.halt_v : (s.halt).v = s.v := rfl
@[simp] theorem State.halt_i : (s.halt).i = s.i := rfl
@[simp] theorem State.halt_pc : (s.halt).pc = s.pc := rfl
@[simp] theorem State.halt_stack : (s.halt).stack = s.stack := rfl
@[simp] theorem State.halt_sp : (s.halt).sp = s.sp := rfl
@[simp] theorem State.halt_delay : (s.halt).delay = s.delay := rfl
@[simp] theorem State.halt_sound : (s.halt).sound = s.sound := rfl
@[simp] theorem State.halt_drawFlag : (s.halt).drawFlag = s.drawFlag := rfl
@[simp] theorem State.halt_status : (s.halt).status = .halted := rfl
@[simp] theorem State.halt_mem : (s.halt).mem = s.mem := rfl
@[simp] theorem State.halt_cfg : (s.halt).cfg = s.cfg := rfl
@[simp] theorem State.halt_inputs : (s.halt).inputs = s.inputs := rfl
@[simp] theorem State.halt_freeIndex : (s.halt).freeIndex = s.freeIndex := rfl
@[simp] theorem State.halt_result : (s.halt).result = some .halted := rfl
@[simp] theorem State.halt_getV (z : RegId) : (s.halt).getV z = s.getV z := rfl
@[simp] theorem State.halt_byteAt (p : Nat) : (s.halt).byteAt p = s.byteAt p := rfl

@[simp] theorem State.await_v : (s.await).v = s.v := rfl
@[simp] theorem State.await_i : (s.await).i = s.i := rfl
@[simp] theorem State.await_pc : (s.await).pc = s.pc := rfl
@[simp] theorem State.await_stack : (s.await).stack = s.stack := rfl
@[simp] theorem State.await_sp : (s.await).sp = s.sp := rfl
@[simp] theorem State.await_delay : (s.await).delay = s.delay := rfl
@[simp] theorem State.await_sound : (s.await).sound = s.sound := rfl
@[simp] theorem State.await_drawFlag : (s.await).drawFlag = s.drawFlag := rfl
@[simp] theorem State.await_status : (s.await).status = s.status := rfl
@[simp] theorem State.await_mem : (s.await).mem = s.mem := rfl
@[simp] theorem State.await_cfg : (s.await).cfg = s.cfg := rfl
@[simp] theorem State.await_inputs : (s.await).inputs = s.inputs := rfl
@[simp] theorem State.await_freeIndex : (s.await).freeIndex = s.freeIndex := rfl
@[simp] theorem State.await_result : (s.await).result = some .awaitingKey := rfl
@[simp] theorem State.await_getV (z : RegId) : (s.await).getV z = s.getV z := rfl
@[simp] theorem State.await_byteAt (p : Nat) : (s.await).byteAt p = s.byteAt p := rfl

@[simp] theorem State.raiseFault_v (r : FaultReason) : (s.raiseFault r).v = s.v := rfl
@[simp] theorem State.raiseFault_i (r : FaultReason) : (s.raiseFault r).i = s.i := rfl
@[simp] theorem State.raiseFault_pc (r : FaultReason) : (s.raiseFault r).pc = s.pc := rfl
@[simp] theorem State.raiseFault_stack (r : FaultReason) : (s.raiseFault r).stack = s.stack := rfl
@[simp] theorem State.raiseFault_sp (r : FaultReason) : (s.raiseFault r).sp = s.sp := rfl
@[simp] theorem State.raiseFault_delay (r : FaultReason) : (s.raiseFault r).delay = s.delay := rfl
@[simp] theorem State.raiseFault_sound (r : FaultReason) : (s.raiseFault r).sound = s.sound := rfl
@[simp] theorem State.raiseFault_drawFlag (r : FaultReason) : (s.raiseFault r).drawFlag = s.drawFlag := rfl
@[simp] theorem State.raiseFault_status (r : FaultReason) : (s.raiseFault r).status = .faulted r := rfl
@[simp] theorem State.raiseFault_mem (r : FaultReason) : (s.raiseFault r).mem = s.mem := rfl
@[simp] theorem State.raiseFault_cfg (r : FaultReason) : (s.raiseFault r).cfg = s.cfg := rfl
@[simp] theorem State.raiseFault_inputs (r : FaultReason) : (s.raiseFault r).inputs = s.inputs := rfl
@[simp] theorem State.raiseFault_freeIndex (r : FaultReason) : (s.raiseFault r).freeIndex = s.freeIndex := rfl
@[simp] theorem State.raiseFault_result (r : FaultReason) : (s.raiseFault r).result = some (.faulted r) := rfl
@[simp] theorem State.raiseFault_getV (r : FaultReason) (z : RegId) : (s.raiseFault r).getV z = s.getV z := rfl
@[simp] theorem State.raiseFault_byteAt (r : FaultReason) (p : Nat) : (s.raiseFault r).byteAt p = s.byteAt p := rfl

@[simp] theorem State.tick_v : (s.tick).v = s.v := rfl
@[simp] theorem State.tick_i : (s.tick).i = s.i := rfl
@[simp] theorem State.tick_pc : (s.tick).pc = s.pc := rfl
@[simp] theorem State.tick_stack : (s.tick).stack = s.stack := rfl
@[simp] theorem State.tick_sp : (s.tick).sp = s.sp := rfl
@[simp] theorem State.tick_delay : (s.tick).delay = countDown s.delay := rfl
@[simp] theorem State.tick_sound : (s.tick).sound = countDown s.sound := rfl
@[simp] theorem State.tick_drawFlag : (s.tick).drawFlag = s.drawFlag := rfl
@[simp] theorem State.tick_status : (s.tick).status = s.status := rfl
@[simp] theorem State.tick_mem : (s.tick).mem = s.mem := rfl
@[simp] theorem State.tick_cfg : (s.tick).cfg = s.cfg := rfl
@[simp] theorem State.tick_inputs : (s.tick).inputs = s.inputs := rfl
@[simp] theorem State.tick_freeIndex : (s.tick).freeIndex = s.freeIndex := rfl
@[simp] theorem State.tick_result : (s.tick).result = s.result := rfl
@[simp] theorem State.tick_getV (z : RegId) : (s.tick).getV z = s.getV z := rfl
@[simp] theorem State.tick_byteAt (p : Nat) : (s.tick).byteAt p = s.byteAt p := rfl

@[simp] theorem State.nextInput_v : (s.nextInput).v = s.v := rfl
@[simp] theorem State.nextInput_i : (s.nextInput).i = s.i := rfl
@[simp] theorem State.nextInput_pc : (s.nextInput).pc = s.pc := rfl
@[simp] theorem State.nextInput_stack : (s.nextInput).stack = s.stack := rfl
@[simp] theorem State.nextInput_sp : (s.nextInput).sp = s.sp := rfl
@[simp] theorem State.nextInput_delay : (s.nextInput).delay = s.delay := rfl
@[simp] theorem State.nextInput_sound : (s.nextInput).sound = s.sound := rfl
@[simp] theorem State.nextInput_drawFlag : (s.nextInput).drawFlag = s.drawFlag := rfl
@[simp] theorem State.nextInput_status : (s.nextInput).status = s.status := rfl
@[simp] theorem State.nextInput_mem : (s.nextInput).mem = s.mem := rfl
@[simp] theorem State.nextInput_cfg : (s.nextInput).cfg = s.cfg := rfl
@[simp] theorem State.nextInput_inputs : (s.nextInput).inputs = s.inputs.tail := rfl
@[simp] theorem State.nextInput_freeIndex : (s.nextInput).freeIndex = s.freeIndex + 1 := rfl
@[simp] theorem State.nextInput_result : (s.nextInput).result = s.result := rfl
@[simp] theorem State.nextInput_getV (z : RegId) : (s.nextInput).getV z = s.getV z := rfl
@[simp] theorem State.nextInput_byteAt (p : Nat) : (s.nextInput).byteAt p = s.byteAt p := rfl

@[simp] theorem State.repeatHalted_v : (s.repeatHalted).v = s.v := rfl
@[simp] theorem State.repeatHalted_i : (s.repeatHalted).i = s.i := rfl
@[simp] theorem State.repeatHalted_pc : (s.repeatHalted).pc = s.pc := rfl
@[simp] theorem State.repeatHalted_stack : (s.repeatHalted).stack = s.stack := rfl
@[simp] theorem State.repeatHalted_sp : (s.repeatHalted).sp = s.sp := rfl
@[simp] theorem State.repeatHalted_delay : (s.repeatHalted).delay = s.delay := rfl
@[simp] theorem State.repeatHalted_sound : (s.repeatHalted).sound = s.sound := rfl
@[simp] theorem State.repeatHalted_drawFlag : (s.repeatHalted).drawFlag = s.drawFlag := rfl
@[simp] theorem State.repeatHalted_status : (s.repeatHalted).status = s.status := rfl
@[simp] theorem State.repeatHalted_mem : (s.repeatHalted).mem = s.mem := rfl
@[simp] theorem State.repeatHalted_cfg : (s.repeatHalted).cfg = s.cfg := rfl
@[simp] theorem State.repeatHalted_inputs : (s.repeatHalted).inputs = s.inputs := rfl
@[simp] theorem State.repeatHalted_freeIndex : (s.repeatHalted).freeIndex = s.freeIndex := rfl
@[simp] theorem State.repeatHalted_result : (s.repeatHalted).result = some .halted := rfl
@[simp] theorem State.repeatHalted_getV (z : RegId) : (s.repeatHalted).getV z = s.getV z := rfl
@[simp] theorem State.repeatHalted_byteAt (p : Nat) : (s.repeatHalted).byteAt p = s.byteAt p := rfl

@[simp] theorem State.repeatFaulted_v (r : FaultReason) : (s.repeatFaulted r).v = s.v := rfl
@[simp] theorem State.repeatFaulted_i (r : FaultReason) : (s.repeatFaulted r).i = s.i := rfl
@[simp] theorem State.repeatFaulted_pc (r : FaultReason) : (s.repeatFaulted r).pc = s.pc := rfl
@[simp] theorem State.repeatFaulted_stack (r : FaultReason) : (s.repeatFaulted r).stack = s.stack := rfl
@[simp] theorem State.repeatFaulted_sp (r : FaultReason) : (s.repeatFaulted r).sp = s.sp := rfl
@[simp] theorem State.repeatFaulted_delay (r : FaultReason) : (s.repeatFaulted r).delay = s.delay := rfl
@[simp] theorem State.repeatFaulted_sound (r : FaultReason) : (s.repeatFaulted r).sound = s.sound := rfl
@[simp] theorem State.repeatFaulted_drawFlag (r : FaultReason) : (s.repeatFaulted r).drawFlag = s.drawFlag := rfl
@[simp] theorem State.repeatFaulted_status (r : FaultReason) : (s.repeatFaulted r).status = s.status := rfl
@[simp] theorem State.repeatFaulted_mem (r : FaultReason) : (s.repeatFaulted r).mem = s.mem := rfl
@[simp] theorem State.repeatFaulted_cfg (r : FaultReason) : (s.repeatFaulted r).cfg = s.cfg := rfl
@[simp] theorem State.repeatFaulted_inputs (r : FaultReason) : (s.repeatFaulted r).inputs = s.inputs := rfl
@[simp] theorem State.repeatFaulted_freeIndex (r : FaultReason) : (s.repeatFaulted r).freeIndex = s.freeIndex := rfl
@[simp] theorem State.repeatFaulted_result (r : FaultReason) : (s.repeatFaulted r).result = some (.faulted r) := rfl
@[simp] theorem State.repeatFaulted_getV (r : FaultReason) (z : RegId) : (s.repeatFaulted r).getV z = s.getV z := rfl
@[simp] theorem State.repeatFaulted_byteAt (r : FaultReason) (p : Nat) : (s.repeatFaulted r).byteAt p = s.byteAt p := rfl

/-! ### Updates by recursion or by cases -/

@[simp] theorem State.setBytes_v (a : Nat) (bs : List Byte) : (s.setBytes a bs).v = s.v := by
  induction bs generalizing s a with
  | nil => rfl
  | cons b bs ih => exact ih ..

@[simp] theorem State.setBytes_i (a : Nat) (bs : List Byte) : (s.setBytes a bs).i = s.i := by
  induction bs generalizing s a with
  | nil => rfl
  | cons b bs ih => exact ih ..

@[simp] theorem State.setBytes_pc (a : Nat) (bs : List Byte) : (s.setBytes a bs).pc = s.pc := by
  induction bs generalizing s a with
  | nil => rfl
  | cons b bs ih => exact ih ..

@[simp] theorem State.setBytes_stack (a : Nat) (bs : List Byte) : (s.setBytes a bs).stack = s.stack := by
  induction bs generalizing s a with
  | nil => rfl
  | cons b bs ih => exact ih ..

@[simp] theorem State.setBytes_sp (a : Nat) (bs : List Byte) : (s.setBytes a bs).sp = s.sp := by
  induction bs generalizing s a with
  | nil => rfl
  | cons b bs ih => exact ih ..

@[simp] theorem State.setBytes_delay (a : Nat) (bs : List Byte) : (s.setBytes a bs).delay = s.delay := by
  induction bs generalizing s a with
  | nil => rfl
  | cons b bs ih => exact ih ..

@[simp] theorem State.setBytes_sound (a : Nat) (bs : List Byte) : (s.setBytes a bs).sound = s.sound := by
  induction bs generalizing s a with
  | nil => rfl
  | cons b bs ih => exact ih ..

@[simp] theorem State.setBytes_drawFlag (a : Nat) (bs : List Byte) : (s.setBytes a bs).drawFlag = s.drawFlag := by
  induction bs generalizing s a with
  | nil => rfl
  | cons b bs ih => exact ih ..

@[simp] theorem State.setBytes_status (a : Nat) (bs : List Byte) : (s.setBytes a bs).status = s.status := by
  induction bs generalizing s a with
  | nil => rfl
  | cons b bs ih => exact ih ..

@[simp] theorem State.setBytes_cfg (a : Nat) (bs : List Byte) : (s.setBytes a bs).cfg = s.cfg := by
  induction bs generalizing s a with
  | nil => rfl
  | cons b bs ih => exact ih ..

@[simp] theorem State.setBytes_inputs (a : Nat) (bs : List Byte) : (s.setBytes a bs).inputs = s.inputs := by
  induction bs generalizing s a with
  | nil => rfl
  | cons b bs ih => exact ih ..

@[simp] theorem State.setBytes_freeIndex (a : Nat) (bs : List Byte) : (s.setBytes a bs).freeIndex = s.freeIndex := by
  induction bs generalizing s a with
  | nil => rfl
  | cons b bs ih => exact ih ..

@[simp] theorem State.setBytes_result (a : Nat) (bs : List Byte) : (s.setBytes a bs).result = s.result := by
  induction bs generalizing s a with
  | nil => rfl
  | cons b bs ih => exact ih ..

@[simp] theorem State.flipPixels_v (ps : List (Nat × Nat)) : (s.flipPixels ps).v = s.v := by
  induction ps generalizing s with
  | nil => rfl
  | cons p ps ih => exact ih ..

@[simp] theorem State.flipPixels_i (ps : List (Nat × Nat)) : (s.flipPixels ps).i = s.i := by
  induction ps generalizing s with
  | nil => rfl
  | cons p ps ih => exact ih ..

@[simp] theorem State.flipPixels_pc (ps : List (Nat × Nat)) : (s.flipPixels ps).pc = s.pc := by
  induction ps generalizing s with
  | nil => rfl
  | cons p ps ih => exact ih ..

@[simp] theorem State.flipPixels_stack (ps : List (Nat × Nat)) : (s.flipPixels ps).stack = s.stack := by
  induction ps generalizing s with
  | nil => rfl
  | cons p ps ih => exact ih ..

@[simp] theorem State.flipPixels_sp (ps : List (Nat × Nat)) : (s.flipPixels ps).sp = s.sp := by
  induction ps generalizing s with
  | nil => rfl
  | cons p ps ih => exact ih ..

@[simp] theorem State.flipPixels_delay (ps : List (Nat × Nat)) : (s.flipPixels ps).delay = s.delay := by
  induction ps generalizing s with
  | nil => rfl
  | cons p ps ih => exact ih ..

@[simp] theorem State.flipPixels_sound (ps : List (Nat × Nat)) : (s.flipPixels ps).sound = s.sound := by
  induction ps generalizing s with
  | nil => rfl
  | cons p ps ih => exact ih ..

@[simp] theorem State.flipPixels_drawFlag (ps : List (Nat × Nat)) : (s.flipPixels ps).drawFlag = s.drawFlag := by
  induction ps generalizing s with
  | nil => rfl
  | cons p ps ih => exact ih ..

@[simp] theorem State.flipPixels_status (ps : List (Nat × Nat)) : (s.flipPixels ps).status = s.status := by
  induction ps generalizing s with
  | nil => rfl
  | cons p ps ih => exact ih ..

@[simp] theorem State.flipPixels_cfg (ps : List (Nat × Nat)) : (s.flipPixels ps).cfg = s.cfg := by
  induction ps generalizing s with
  | nil => rfl
  | cons p ps ih => exact ih ..

@[simp] theorem State.flipPixels_inputs (ps : List (Nat × Nat)) : (s.flipPixels ps).inputs = s.inputs := by
  induction ps generalizing s with
  | nil => rfl
  | cons p ps ih => exact ih ..

@[simp] theorem State.flipPixels_freeIndex (ps : List (Nat × Nat)) : (s.flipPixels ps).freeIndex = s.freeIndex := by
  induction ps generalizing s with
  | nil => rfl
  | cons p ps ih => exact ih ..

@[simp] theorem State.flipPixels_result (ps : List (Nat × Nat)) : (s.flipPixels ps).result = s.result := by
  induction ps generalizing s with
  | nil => rfl
  | cons p ps ih => exact ih ..

@[simp] theorem State.setBytes_getV (a : Nat) (bs : List Byte) (z : RegId) : (s.setBytes a bs).getV z = s.getV z := by
  simp [State.getV]

@[simp] theorem State.flipPixels_getV (ps : List (Nat × Nat)) (z : RegId) : (s.flipPixels ps).getV z = s.getV z := by
  simp [State.getV]

@[simp] theorem State.tickIfContinue_v : s.tickIfContinue.v = s.v := by
  unfold State.tickIfContinue; split <;> rfl

@[simp] theorem State.tickIfContinue_i : s.tickIfContinue.i = s.i := by
  unfold State.tickIfContinue; split <;> rfl

@[simp] theorem State.tickIfContinue_pc : s.tickIfContinue.pc = s.pc := by
  unfold State.tickIfContinue; split <;> rfl

@[simp] theorem State.tickIfContinue_stack : s.tickIfContinue.stack = s.stack := by
  unfold State.tickIfContinue; split <;> rfl

@[simp] theorem State.tickIfContinue_sp : s.tickIfContinue.sp = s.sp := by
  unfold State.tickIfContinue; split <;> rfl

@[simp] theorem State.tickIfContinue_drawFlag : s.tickIfContinue.drawFlag = s.drawFlag := by
  unfold State.tickIfContinue; split <;> rfl

@[simp] theorem State.tickIfContinue_status : s.tickIfContinue.status = s.status := by
  unfold State.tickIfContinue; split <;> rfl

@[simp] theorem State.tickIfContinue_mem : s.tickIfContinue.mem = s.mem := by
  unfold State.tickIfContinue; split <;> rfl

@[simp] theorem State.tickIfContinue_cfg : s.tickIfContinue.cfg = s.cfg := by
  unfold State.tickIfContinue; split <;> rfl

@[simp] theorem State.tickIfContinue_inputs : s.tickIfContinue.inputs = s.inputs := by
  unfold State.tickIfContinue; split <;> rfl

@[simp] theorem State.tickIfContinue_freeIndex : s.tickIfContinue.freeIndex = s.freeIndex := by
  unfold State.tickIfContinue; split <;> rfl

@[simp] theorem State.tickIfContinue_result : s.tickIfContinue.result = s.result := by
  unfold State.tickIfContinue; split <;> rfl

@[simp] theorem State.finishStep_v : s.finishStep.v = s.v := by simp [State.finishStep]
@[simp] theorem State.finishStep_i : s.finishStep.i = s.i := by simp [State.finishStep]
@[simp] theorem State.finishStep_pc : s.finishStep.pc = s.pc := by simp [State.finishStep]
@[simp] theorem State.finishStep_stack : s.finishStep.stack = s.stack := by simp [State.finishStep]
@[simp] theorem State.finishStep_sp : s.finishStep.sp = s.sp := by simp [State.finishStep]
@[simp] theorem State.finishStep_drawFlag : s.finishStep.drawFlag = s.drawFlag := by simp [State.finishStep]
@[simp] theorem State.finishStep_status : s.finishStep.status = s.status := by simp [State.finishStep]
@[simp] theorem State.finishStep_mem : s.finishStep.mem = s.mem := by simp [State.finishStep]
@[simp] theorem State.finishStep_cfg : s.finishStep.cfg = s.cfg := by simp [State.finishStep]
@[simp] theorem State.finishStep_inputs : s.finishStep.inputs = s.inputs.tail := by simp [State.finishStep]
@[simp] theorem State.finishStep_freeIndex : s.finishStep.freeIndex = s.freeIndex + 1 := by simp [State.finishStep]
@[simp] theorem State.finishStep_result : s.finishStep.result = s.result := by simp [State.finishStep]

@[simp] theorem State.finishStep_getV (z : RegId) : s.finishStep.getV z = s.getV z := by simp [State.getV]

@[simp] theorem State.finishStep_byteAt (a : Nat) : s.finishStep.byteAt a = s.byteAt a := by simp [State.byteAt]

end Sys2Proof.Machine
end

