-- ==== Sys2Proof/Laws/Memory.lean ====
section
/-! SUPPORT. Memory: read after write, the canonical form, and one lemma per checked access saying everything it can do. -/

namespace Sys2Proof

/-! ### The memory map in numbers (00_scope.md R3) -/

theorem Config.displayStart_eq (c : Config) : c.displayStart = c.memSize - 256 := by
  unfold Config.displayStart displayBytes
  rfl

theorem Config.reservedStart_eq (c : Config) : c.reservedStart = c.memSize - 352 := by
  unfold Config.reservedStart Config.displayStart displayBytes reservedBytes
  omega

theorem Config.maxRomLen_eq (c : Config) : c.maxRomLen = c.memSize - 864 := by
  unfold Config.maxRomLen Config.reservedStart Config.displayStart displayBytes reservedBytes programStart
  omega

end Sys2Proof

namespace Sys2Proof.Machine

/-! ### The list -/

theorem Memory.find_put (a : Nat) (b : Byte) (m : Memory) (p : Nat) :
    Memory.find p (Memory.put a b m) = if p = a then some b else Memory.find p m := by
  induction m with
  | nil => simp [Memory.put, Memory.find, eq_comm]
  | cons c m ih =>
    simp only [Memory.put]
    split
    · simp [Memory.find, eq_comm]
    · split
      · rename_i h
        subst h
        by_cases hp : p = c.1
        · simp [Memory.find, hp]
        · simp [Memory.find, hp, Ne.symm hp]
      · by_cases hp : c.1 = p
        · subst hp
          rename_i h
          simp [Memory.find, Ne.symm h]
        · simp [Memory.find, hp, ih]

/-- Keeping the cells of some addresses keeps what is listed there, and nothing else. -/
theorem Memory.find_filter (f : Nat → Bool) (m : Memory) (p : Nat) :
    Memory.find p (m.filter fun c => f c.1) = if f p then Memory.find p m else none := by
  induction m with
  | nil => simp [Memory.find]
  | cons c m ih =>
    by_cases hf : f c.1
    · by_cases hp : c.1 = p
      · subst hp
        simp [hf, Memory.find]
      · simp [hf, hp, Memory.find, ih]
    · by_cases hp : c.1 = p
      · subst hp
        simp [hf, ih]
      · simp [hf, hp, Memory.find, ih]

theorem Memory.find_drop (a : Nat) (m : Memory) (p : Nat) :
    Memory.find p (Memory.drop a m) = if p = a then none else Memory.find p m := by
  rw [Memory.drop, Memory.find_filter (fun q => q != a)]
  by_cases h : p = a <;> simp [h]

theorem Memory.mem_put {a : Nat} {b : Byte} {m : Memory} {c : Host.Cell} (h : c ∈ Memory.put a b m) : c = (a, b) ∨ c ∈ m := by
  induction m with
  | nil => simpa [Memory.put] using h
  | cons d m ih =>
    simp only [Memory.put] at h
    split at h
    · simpa using h
    · split at h
      · simp only [List.mem_cons] at h ⊢
        tauto
      · simp only [List.mem_cons] at h ⊢
        rcases h with h | h
        · exact .inr (.inl h)
        · rcases ih h with h | h
          · exact .inl h
          · exact .inr (.inr h)

/-- A cell that is listed is found, where addresses rise. -/
theorem Memory.find_of_mem {m : Memory} (h : m.Pairwise fun c d => c.1 < d.1) {c : Host.Cell} (hc : c ∈ m) :
    Memory.find c.1 m = some c.2 := by
  induction m with
  | nil => simp at hc
  | cons d m ih =>
    simp only [List.pairwise_cons, List.mem_cons] at h hc
    rcases hc with rfl | hc
    · simp [Memory.find]
    · have hlt := h.1 c hc
      simp [Memory.find, Nat.ne_of_lt hlt, ih h.2 hc]

/-- What is found is listed. -/
theorem Memory.mem_of_find {m : Memory} {a : Nat} {b : Byte} (h : Memory.find a m = some b) : (a, b) ∈ m := by
  induction m with
  | nil => simp [Memory.find] at h
  | cons c m ih =>
    simp only [Memory.find] at h
    split at h
    · rename_i hc
      obtain ⟨c₁, c₂⟩ := c
      simp_all
    · exact List.mem_cons_of_mem _ (ih h)

theorem Memory.put_rising {a : Nat} {b : Byte} {m : Memory} (h : m.Pairwise fun c d => c.1 < d.1) :
    (Memory.put a b m).Pairwise fun c d => c.1 < d.1 := by
  induction m with
  | nil => simp [Memory.put]
  | cons c m ih =>
    simp only [Memory.put]
    have h' := List.pairwise_cons.mp h
    split
    · rename_i hac
      refine List.pairwise_cons.mpr ⟨fun d hd => ?_, h⟩
      rcases List.mem_cons.mp hd with rfl | hd
      · exact hac
      · exact Nat.lt_trans hac (h'.1 d hd)
    · split
      · rename_i hac
        exact List.pairwise_cons.mpr ⟨fun d hd => hac ▸ h'.1 d hd, h'.2⟩
      · rename_i h₁ h₂
        refine List.pairwise_cons.mpr ⟨fun d hd => ?_, ih h'.2⟩
        rcases Memory.mem_put hd with rfl | hd
        · exact Nat.lt_of_le_of_ne (Nat.le_of_not_lt h₁) (Ne.symm h₂)
        · exact h'.1 d hd

theorem Memory.put_wf {font : Vector Byte 80} {a : Nat} {b : Byte} {m : Memory} (hb : b ≠ unlistedByte font a) (h : Memory.Wf font m) :
    Memory.Wf font (Memory.put a b m) := by
  refine ⟨Memory.put_rising h.1, fun c hc => ?_⟩
  rcases Memory.mem_put hc with rfl | hc
  · exact hb
  · exact h.2 c hc

theorem Memory.filter_wf {font : Vector Byte 80} {m : Memory} (f : Host.Cell → Bool) (h : Memory.Wf font m) : Memory.Wf font (m.filter f) :=
  ⟨h.1.sublist List.filter_sublist, fun c hc => h.2 c (List.mem_filter.mp hc).1⟩

/-! ### One byte of the state -/

/-- Read after write: the byte written, and every other byte as it was. -/
@[simp] theorem State.setByte_byteAt (s : State) (a : Nat) (b : Byte) (p : Nat) :
    (s.setByte a b).byteAt p = if p = a then b else s.byteAt p := by
  unfold State.byteAt State.setByte
  by_cases hb : b = unlistedByte s.cfg.font a
  · by_cases hp : p = a
    · subst hp
      simp [hb, Memory.find_drop]
    · simp [hb, Memory.find_drop, hp]
  · by_cases hp : p = a <;> simp [hb, Memory.find_put, hp]

/-- A write keeps the canonical form. -/
theorem State.setByte_wf {s : State} (a : Nat) (b : Byte) (h : Memory.Wf s.cfg.font s.mem) :
    Memory.Wf s.cfg.font (s.setByte a b).mem := by
  unfold State.setByte
  dsimp only
  split
  · exact Memory.filter_wf _ h
  · rename_i hb
    exact Memory.put_wf hb h

/-- A write lists no address but its own. -/
theorem State.mem_setByte {s : State} {a : Nat} {b : Byte} {c : Host.Cell} (h : c ∈ (s.setByte a b).mem) : c.1 = a ∨ c ∈ s.mem := by
  unfold State.setByte at h
  dsimp only at h
  split at h
  · exact .inr (List.mem_filter.mp h).1
  · rcases Memory.mem_put h with rfl | h
    · exact .inl rfl
    · exact .inr h

/-- A block of bytes written: each at its place, the rest as it was. -/
theorem State.setBytes_byteAt (s : State) (a : Nat) (bs : List Byte) (p : Nat) :
    (s.setBytes a bs).byteAt p = if h : a ≤ p ∧ p - a < bs.length then bs[p - a] else s.byteAt p := by
  induction bs generalizing s a with
  | nil => simp [State.setBytes]
  | cons b bs ih =>
    rw [State.setBytes, ih]
    by_cases hp : p = a
    · subst hp
      simp
    · by_cases h : a + 1 ≤ p ∧ p - (a + 1) < bs.length
      · have h' : a ≤ p ∧ p - a < (b :: bs).length := by simp only [List.length_cons]; omega
        have e : p - a = (p - (a + 1)) + 1 := by omega
        rw [dif_pos h, dif_pos h']
        simp only [e, List.getElem_cons_succ]
      · have h' : ¬(a ≤ p ∧ p - a < (b :: bs).length) := by simp only [List.length_cons]; omega
        rw [dif_neg h, dif_neg h']
        simp [hp]

theorem State.setBytes_wf {s : State} (a : Nat) (bs : List Byte) (h : Memory.Wf s.cfg.font s.mem) :
    Memory.Wf s.cfg.font (s.setBytes a bs).mem := by
  induction bs generalizing s a with
  | nil => exact h
  | cons b bs ih => exact ih (s := s.setByte a b) (a + 1) (State.setByte_wf a b h)

theorem State.mem_setBytes {s : State} {a : Nat} {bs : List Byte} {c : Host.Cell} (h : c ∈ (s.setBytes a bs).mem) :
    (a ≤ c.1 ∧ c.1 < a + bs.length) ∨ c ∈ s.mem := by
  induction bs generalizing s a with
  | nil => exact .inr h
  | cons b bs ih =>
    rw [List.length_cons]
    rcases ih h with h | h
    · exact .inl (by omega)
    · rcases State.mem_setByte h with h | h
      · exact .inl (by omega)
      · exact .inr h

/-- The screen cleared: DISPLAY reads as unlisted (0 beyond the font), the rest as it was. -/
theorem State.clearDisplay_byteAt (s : State) (p : Nat) :
    s.clearDisplay.byteAt p = if s.cfg.inDisplay p then unlistedByte s.cfg.font p else s.byteAt p := by
  unfold State.byteAt State.clearDisplay
  rw [Memory.find_filter fun q => !s.cfg.inDisplay q]
  by_cases h : s.cfg.inDisplay p <;> simp [h]

theorem State.clearDisplay_wf {s : State} (h : Memory.Wf s.cfg.font s.mem) : Memory.Wf s.cfg.font s.clearDisplay.mem :=
  Memory.filter_wf _ h

/-- Beyond the font an unlisted byte is 0. -/
theorem unlistedByte_of_ge (font : Vector Byte 80) {a : Nat} (h : 80 ≤ a) : unlistedByte font a = 0#8 := by
  simp [unlistedByte, Nat.not_lt.mpr h]

theorem unlistedByte_of_lt (font : Vector Byte 80) {a : Nat} (h : a < 80) : unlistedByte font a = font[a] := by
  simp [unlistedByte, h]

/-! ### The checks, in the terms of 20_memory.md R42 -/

theorem readFault_none {c : Config} {a : Nat} : readFault c a = none ↔ Readable c a := by
  unfold readFault Readable Config.inReserved Config.reservedStart Config.displayStart displayBytes reservedBytes
  split_ifs <;> simp_all

theorem readFault_some {c : Config} {a : Nat} (h : ¬Readable c a) : readFault c a = some (readReason c a) := by
  unfold readFault readReason Config.inReserved Config.reservedStart Config.displayStart displayBytes reservedBytes
  by_cases h₁ : c.memSize ≤ a
  · simp [h₁]
  · have h₂ : c.memSize - 352 ≤ a ∧ a < c.memSize - 256 := by omega
    rw [if_neg h₁, if_neg h₁, if_pos (by simpa using h₂)]

theorem writeFault_none {c : Config} {a : Nat} : writeFault c a = none ↔ Writable c a := by
  unfold writeFault Writable Readable Config.inReserved Config.reservedStart Config.displayStart displayBytes reservedBytes fontEnd
  split_ifs <;> simp_all

theorem writeFault_some {c : Config} {a : Nat} (h : ¬Writable c a) : writeFault c a = some (writeReason c a) := by
  unfold writeFault writeReason Config.inReserved Config.reservedStart Config.displayStart displayBytes reservedBytes fontEnd
  by_cases h₁ : c.memSize ≤ a
  · simp [h₁]
  · rw [if_neg h₁, if_neg h₁]
    by_cases h₂ : c.memSize - 352 ≤ a ∧ a < c.memSize - 256
    · rw [if_pos (by simpa using h₂), if_neg fun h₃ => h₃.2 h₂]
    · rw [if_neg (by simpa using h₂), if_pos (by omega), if_pos ⟨by omega, h₂⟩]

theorem fetchFault_none {c : Config} {pc : Nat} :
    fetchFault c pc = none ↔ Readable c pc ∧ Readable c (pc + 1) ∧ pc % 2 = 0 := by
  unfold fetchFault Readable Config.inReserved Config.reservedStart Config.displayStart displayBytes reservedBytes
  split_ifs <;> simp_all <;> omega

/-! ### Checked accesses -/

/-- Everything `memRead` can do. -/
theorem State.memRead_eq (s : State) (a : Nat) :
    s.memRead a = if Readable s.cfg a then .ok (s.byteAt a) else .error (readReason s.cfg a) := by
  unfold State.memRead
  by_cases h : Readable s.cfg a
  · rw [readFault_none.mpr h, if_pos h]
  · rw [readFault_some h, if_neg h]

/-- Everything `memWrite` can do. -/
theorem State.memWrite_eq (s : State) (a : Nat) (b : Byte) :
    s.memWrite a b = if Writable s.cfg a then .ok ((s.setByte a b).setDrawFlag (s.drawFlag || decide (s.cfg.memSize - 256 ≤ a)))
      else .error (writeReason s.cfg a) := by
  unfold State.memWrite
  by_cases h : Writable s.cfg a
  · rw [writeFault_none.mpr h, if_pos h]
    rfl
  · rw [writeFault_some h, if_neg h]

/-- Everything `fetch` can do. -/
theorem State.fetch_cases (s : State) :
    (fetchFault s.cfg s.pc.toNat = none ∧ s.fetch = .ok (joinBytes (s.byteAt s.pc.toNat) (s.byteAt (s.pc.toNat + 1)))) ∨
    ∃ r, fetchFault s.cfg s.pc.toNat = some r ∧ s.fetch = .error r := by
  unfold State.fetch
  cases h : fetchFault s.cfg s.pc.toNat with
  | none => exact .inl ⟨rfl, rfl⟩
  | some r => exact .inr ⟨r, rfl, rfl⟩

/-- A readable block reads as the bytes at its addresses. -/
theorem State.readBlock_ok {s : State} {a n : Nat} (h : ∀ k, k < n → Readable s.cfg (a + k)) :
    s.readBlock a n = .ok ((List.range n).map fun k => s.byteAt (a + k)) := by
  induction n generalizing a with
  | zero => rfl
  | succ n ih =>
    have h₀ : Readable s.cfg a := h 0 (by omega)
    have h' : ∀ k, k < n → Readable s.cfg (a + 1 + k) := fun k hk => by
      have := h (k + 1) (by omega)
      rwa [Nat.add_assoc, Nat.add_comm 1 k]
    rw [State.readBlock, State.memRead_eq, if_pos h₀]
    dsimp only
    rw [ih h', List.range_succ_eq_map]
    simp [Nat.add_assoc, Nat.add_comm 1]

/-- The first forbidden address of a block gives the reason. -/
theorem State.readBlock_error {s : State} {a n k : Nat} (hk : k < n) (h : ∀ j, j < k → Readable s.cfg (a + j))
    (hbad : ¬Readable s.cfg (a + k)) : s.readBlock a n = .error (readReason s.cfg (a + k)) := by
  induction n generalizing a k with
  | zero => omega
  | succ n ih =>
    rw [State.readBlock, State.memRead_eq]
    cases k with
    | zero => rw [if_neg (by simpa using hbad)]; rfl
    | succ k =>
      have h₀ : Readable s.cfg a := h 0 (by omega)
      have e : ∀ j, a + 1 + j = a + (j + 1) := fun j => by omega
      have h' : ∀ j, j < k → Readable s.cfg (a + 1 + j) := fun j hj => by
        rw [e]; exact h (j + 1) (by omega)
      rw [← e k] at hbad ⊢
      rw [if_pos h₀]
      dsimp only
      rw [ih (by omega) h' hbad]

/-- The flag plays no part in storing bytes. -/
theorem State.setBytes_setDrawFlag (s : State) (d : Bool) (a : Nat) (bs : List Byte) :
    (s.setDrawFlag d).setBytes a bs = (s.setBytes a bs).setDrawFlag d := by
  induction bs generalizing s a with
  | nil => rfl
  | cons b bs ih => exact ih (s.setByte a b) (a + 1)

/-- A block reaches DISPLAY at its first byte or after it. -/
theorem or_decide_block (d : Bool) (p a : Nat) (b : Byte) (bs : List Byte) :
    (d || decide (p ≤ a) || decide (∃ k, k < bs.length ∧ p ≤ a + 1 + k)) = (d || decide (∃ k, k < (b :: bs).length ∧ p ≤ a + k)) := by
  rw [Bool.or_assoc]
  congr 1
  rw [Bool.eq_iff_iff]
  simp only [Bool.or_eq_true, decide_eq_true_eq, List.length_cons]
  constructor
  · rintro (h | ⟨k, hk, h⟩)
    · exact ⟨0, by omega, h⟩
    · exact ⟨k + 1, by omega, by omega⟩
  · rintro ⟨k, hk, h⟩
    cases k with
    | zero => exact .inl h
    | succ k => exact .inr ⟨k, by omega, by omega⟩

/-- A writable block is written byte by byte, and a byte in DISPLAY sets the flag. -/
theorem State.writeBlock_ok {s : State} {a : Nat} {bs : List Byte} (h : ∀ k, k < bs.length → Writable s.cfg (a + k)) :
    s.writeBlock a bs =
      .ok ((s.setBytes a bs).setDrawFlag (s.drawFlag || decide (∃ k, k < bs.length ∧ s.cfg.memSize - 256 ≤ a + k))) := by
  induction bs generalizing s a with
  | nil =>
    simp only [State.writeBlock, State.setBytes, List.length_nil, Nat.not_lt_zero, false_and, exists_false, decide_false, Bool.or_false]
    rfl
  | cons b bs ih =>
    have h₀ : Writable s.cfg a := h 0 (by simp)
    rw [State.writeBlock, State.memWrite_eq, if_pos h₀]
    dsimp only
    have h' : ∀ k, k < bs.length → Writable s.cfg (a + 1 + k) := fun k hk => by
      have := h (k + 1) (by simpa using hk)
      rwa [Nat.add_right_comm, Nat.add_assoc]
    rw [ih (s := (s.setByte a b).setDrawFlag _) h', State.setBytes_setDrawFlag]
    rw [State.setDrawFlag_cfg, State.setByte_cfg, State.setDrawFlag_drawFlag, or_decide_block]
    rfl

/-- The first forbidden address of a block gives the reason. -/
theorem State.writeBlock_error {s : State} {a k : Nat} {bs : List Byte} (hk : k < bs.length) (h : ∀ j, j < k → Writable s.cfg (a + j))
    (hbad : ¬Writable s.cfg (a + k)) : s.writeBlock a bs = .error (writeReason s.cfg (a + k)) := by
  induction bs generalizing s a k with
  | nil => simp at hk
  | cons b bs ih =>
    rw [State.writeBlock, State.memWrite_eq]
    cases k with
    | zero => rw [if_neg (by simpa using hbad)]; rfl
    | succ k =>
      have h₀ : Writable s.cfg a := h 0 (by omega)
      have e : ∀ j, a + 1 + j = a + (j + 1) := fun j => by omega
      have h' : ∀ j, j < k → Writable s.cfg (a + 1 + j) := fun j hj => by
        rw [e]; exact h (j + 1) (by omega)
      rw [← e k] at hbad ⊢
      rw [if_pos h₀]
      exact ih (s := (s.setByte a b).setDrawFlag _) (by simpa using hk) h' hbad

/-- Some address of a block is forbidden, or none is: the first one, where there is one. -/
theorem first_forbidden (P : Nat → Prop) [DecidablePred P] (n : Nat) :
    (∀ k, k < n → P k) ∨ ∃ k, k < n ∧ (∀ j, j < k → P j) ∧ ¬P k := by
  by_cases h : ∃ k, k < n ∧ ¬P k
  · refine .inr ⟨Nat.find h, (Nat.find_spec h).1, fun j hj => ?_, (Nat.find_spec h).2⟩
    by_contra hP
    exact Nat.find_min h hj ⟨by have := (Nat.find_spec h).1; omega, hP⟩
  · push Not at h
    exact .inl h

/-- Everything `readBlock` can do. -/
theorem State.readBlock_cases (s : State) (a n : Nat) :
    ((∀ k, k < n → Readable s.cfg (a + k)) ∧ s.readBlock a n = .ok ((List.range n).map fun k => s.byteAt (a + k))) ∨
    ∃ r, s.readBlock a n = .error r ∧ (r = .outOfBounds ∨ r = .reservedAccess) := by
  rcases first_forbidden (fun k => Readable s.cfg (a + k)) n with h | ⟨k, hk, h, hbad⟩
  · exact .inl ⟨h, State.readBlock_ok h⟩
  · refine .inr ⟨_, State.readBlock_error hk h hbad, ?_⟩
    unfold readReason
    split <;> simp

/-- Everything `writeBlock` can do. -/
theorem State.writeBlock_cases (s : State) (a : Nat) (bs : List Byte) :
    ((∀ k, k < bs.length → Writable s.cfg (a + k)) ∧ s.writeBlock a bs =
      .ok ((s.setBytes a bs).setDrawFlag (s.drawFlag || decide (∃ k, k < bs.length ∧ s.cfg.memSize - 256 ≤ a + k)))) ∨
    ∃ r, s.writeBlock a bs = .error r ∧ (r = .outOfBounds ∨ r = .reservedAccess ∨ r = .protectedWrite) := by
  rcases first_forbidden (fun k => Writable s.cfg (a + k)) bs.length with h | ⟨k, hk, h, hbad⟩
  · exact .inl ⟨h, State.writeBlock_ok h⟩
  · refine .inr ⟨_, State.writeBlock_error hk h hbad, ?_⟩
    unfold writeReason
    split_ifs <;> simp

end Sys2Proof.Machine
end

