-- ==== Sys2Proof/Laws/Display.lean ====
section
/-! SUPPORT. The framebuffer: pixels read and written, and what flipping a list of pixels does. -/

namespace Sys2Proof.Machine

/-- Reading a written bit. -/
theorem writeBit_getLsbD (v : Byte) (k : Nat) (hk : k < 8) (b : Bool) (j : Nat) :
    (writeBit v k b).getLsbD j = if j = k then b else v.getLsbD j := by
  have h1 : (1#8 <<< k).getLsbD j = decide (j = k) := by
    by_cases h : j = k
    · subst h
      simp [hk]
    · simp only [BitVec.getLsbD_shiftLeft, h, decide_false]
      by_cases hjk : j < k
      · simp [hjk]
      · have : ¬j - k = 0 := by omega
        simp [BitVec.getLsbD_one, this]
  unfold writeBit
  cases b
  · rw [if_neg (by simp), BitVec.getLsbD_and, BitVec.getLsbD_not, h1]
    by_cases h : j = k
    · simp [h]
    · by_cases hj : j < 8
      · simp only [h, hj, decide_true, decide_false, Bool.not_false, Bool.and_true, if_false]
      · simp only [BitVec.getLsbD_of_ge v j (by omega), Bool.false_and, h, if_false]
  · rw [if_pos rfl, BitVec.getLsbD_or, h1]
    by_cases h : j = k <;> simp [h]

theorem pixelBit_lt (col : Nat) : pixelBit col < 8 := by
  unfold pixelBit
  omega

/-- Two pixels of the screen share byte and bit only if they are the same pixel (20_memory.md R49). -/
theorem pixel_inj (c : Config) {col row col' row' : Nat} (h : col < 64) (h' : col' < 64) :
    (pixelAddr c col row = pixelAddr c col' row' ∧ pixelBit col = pixelBit col') ↔ (col = col' ∧ row = row') := by
  unfold pixelAddr pixelBit rowBytes
  omega

/-- A pixel of the screen lies in DISPLAY. -/
theorem pixelAddr_range (c : Config) {col row : Nat} (h : col < 64) (h' : row < 32) :
    c.displayStart ≤ pixelAddr c col row ∧ pixelAddr c col row < c.displayStart + 256 := by
  unfold pixelAddr rowBytes
  omega

/-- Reading a written pixel. -/
theorem State.pixelSet_pixelGet (s : State) {col row col' row' : Nat} (h : col < 64) (h' : col' < 64) (b : Bool) :
    (s.pixelSet col row b).pixelGet col' row' = if col' = col ∧ row' = row then b else s.pixelGet col' row' := by
  unfold State.pixelGet State.pixelSet
  rw [State.setByte_cfg, State.setByte_byteAt]
  have hinj := pixel_inj s.cfg (row := row') (row' := row) h' h
  by_cases ha : pixelAddr s.cfg col' row' = pixelAddr s.cfg col row
  · rw [if_pos ha, writeBit_getLsbD _ _ (pixelBit_lt _)]
    by_cases hb : pixelBit col' = pixelBit col
    · rw [if_pos hb, if_pos (hinj.mp ⟨ha, hb⟩)]
    · rw [if_neg hb, if_neg fun h => hb (hinj.mpr h).2, ha]
  · rw [if_neg ha, if_neg fun h => ha (hinj.mpr h).1]

/-- Reading a flipped pixel. -/
theorem State.pixelFlip_pixelGet (s : State) {col row col' row' : Nat} (h : col < 64) (h' : col' < 64) :
    (s.pixelFlip col row).pixelGet col' row' = if col' = col ∧ row' = row then !s.pixelGet col row else s.pixelGet col' row' :=
  State.pixelSet_pixelGet s h h' _

/-- A flip changes no byte but the pixel's own. -/
theorem State.pixelFlip_byteAt (s : State) (col row p : Nat) (hp : p ≠ pixelAddr s.cfg col row) :
    (s.pixelFlip col row).byteAt p = s.byteAt p := by
  unfold State.pixelFlip State.pixelSet
  rw [State.setByte_byteAt, if_neg hp]

theorem State.pixelFlip_wf {s : State} (col row : Nat) (h : Memory.Wf s.cfg.font s.mem) :
    Memory.Wf s.cfg.font (s.pixelFlip col row).mem :=
  State.setByte_wf _ _ h

/-- Flipping pixels of the screen keeps the canonical form. -/
theorem State.flipPixels_wf {s : State} (ps : List (Nat × Nat)) (h : Memory.Wf s.cfg.font s.mem) :
    Memory.Wf s.cfg.font (s.flipPixels ps).mem := by
  induction ps generalizing s with
  | nil => exact h
  | cons p ps ih => exact ih (s := s.pixelFlip p.1 p.2) (State.pixelFlip_wf p.1 p.2 h)

/-- Flipping pixels of the screen changes only framebuffer bytes. -/
theorem State.flipPixels_byteAt (s : State) (ps : List (Nat × Nat)) (hps : ∀ p ∈ ps, p.1 < 64 ∧ p.2 < 32) (a : Nat)
    (ha : a < s.cfg.displayStart ∨ s.cfg.displayStart + 256 ≤ a) : (s.flipPixels ps).byteAt a = s.byteAt a := by
  induction ps generalizing s with
  | nil => rfl
  | cons p ps ih =>
    have hp := hps p (by simp)
    have hr := pixelAddr_range s.cfg hp.1 hp.2
    have h := ih (s.pixelFlip p.1 p.2) (fun q hq => hps q (List.mem_cons_of_mem _ hq)) (by simpa using ha)
    exact h.trans (State.pixelFlip_byteAt s p.1 p.2 a (by omega))

/-- Flipping pixels of the screen lists only framebuffer addresses. -/
theorem State.mem_flipPixels {s : State} {ps : List (Nat × Nat)} (hps : ∀ p ∈ ps, p.1 < 64 ∧ p.2 < 32) {c : Host.Cell}
    (h : c ∈ (s.flipPixels ps).mem) : (s.cfg.displayStart ≤ c.1 ∧ c.1 < s.cfg.displayStart + 256) ∨ c ∈ s.mem := by
  induction ps generalizing s with
  | nil => exact .inr h
  | cons p ps ih =>
    have hp := hps p (by simp)
    have hr := pixelAddr_range s.cfg hp.1 hp.2
    rcases ih (s := s.pixelFlip p.1 p.2) (fun q hq => hps q (List.mem_cons_of_mem _ hq)) h with h | h
    · exact .inl (by simpa using h)
    · rcases State.mem_setByte h with h | h
      · exact .inl (h ▸ hr)
      · exact .inr h

/-- Flipping distinct pixels flips exactly those. -/
theorem State.flipPixels_pixelGet (s : State) (ps : List (Nat × Nat)) (hps : ∀ p ∈ ps, p.1 < 64 ∧ p.2 < 32) (hnd : ps.Nodup)
    {col row : Nat} (hc : col < 64) :
    (s.flipPixels ps).pixelGet col row = if (col, row) ∈ ps then !s.pixelGet col row else s.pixelGet col row := by
  induction ps generalizing s with
  | nil => simp [State.flipPixels]
  | cons p ps ih =>
    have hp := hps p (by simp)
    have hn := List.nodup_cons.mp hnd
    rw [State.flipPixels, ih (s.pixelFlip p.1 p.2) (fun q hq => hps q (List.mem_cons_of_mem _ hq)) hn.2,
      State.pixelFlip_pixelGet s hp.1 hc]
    by_cases h : col = p.1 ∧ row = p.2
    · obtain ⟨rfl, rfl⟩ := h
      simp [hn.1]
    · have : (col, row) ≠ p := fun e => h ⟨congrArg Prod.fst e, congrArg Prod.snd e⟩
      simp [h, this]

/-! ### The pixels of a sprite (44_display.md R171) -/

theorem mem_rowPixels {x0 row : Nat} {b : Byte} {p : Nat × Nat} :
    p ∈ rowPixels x0 row b ↔ p.2 = row ∧ row < 32 ∧ p.1 < 64 ∧ x0 ≤ p.1 ∧ p.1 < x0 + 8 ∧ b.getLsbD (7 - (p.1 - x0)) = true := by
  unfold rowPixels displayHeight displayWidth
  simp only [List.mem_filterMap, List.mem_range, Option.ite_none_right_eq_some, Option.some.injEq]
  constructor
  · rintro ⟨c, hc, ⟨h₁, h₂, h₃⟩, rfl⟩
    refine ⟨rfl, h₁, h₂, by omega, by dsimp only; omega, ?_⟩
    rwa [Nat.add_sub_cancel_left]
  · rintro ⟨rfl, h₁, h₂, h₃, h₄, h₅⟩
    exact ⟨p.1 - x0, by omega, ⟨h₁, by omega, h₅⟩, Prod.ext (by dsimp only; omega) rfl⟩

theorem rowPixels_nodup (x0 row : Nat) (b : Byte) : (rowPixels x0 row b).Nodup := by
  unfold rowPixels
  refine List.Nodup.filterMap ?_ List.nodup_range
  intro c c' p h h'
  simp only [Option.mem_def, Option.ite_none_right_eq_some, Option.some.injEq] at h h'
  have := congrArg Prod.fst (h.2.trans h'.2.symm)
  simp at this
  omega

/-- The pixels of a sprite are those of its rows, on the screen. -/
theorem mem_spritePixels {x0 y0 : Nat} {bs : List Byte} {p : Nat × Nat} :
    p ∈ spritePixels x0 y0 bs ↔
      p.1 < 64 ∧ p.2 < 32 ∧ x0 ≤ p.1 ∧ p.1 < x0 + 8 ∧ y0 ≤ p.2 ∧ ∃ h : p.2 - y0 < bs.length, (bs[p.2 - y0]).getLsbD (7 - (p.1 - x0)) = true := by
  induction bs generalizing y0 with
  | nil => simp [spritePixels]
  | cons b bs ih =>
    rw [spritePixels, List.mem_append, mem_rowPixels, ih]
    constructor
    · rintro (⟨h₁, h₂, h₃, h₄, h₅, h₆⟩ | ⟨h₁, h₂, h₃, h₄, h₅, h₆, h₇⟩)
      · subst h₁
        refine ⟨h₃, h₂, h₄, h₅, Nat.le_refl _, by simp, ?_⟩
        simpa using h₆
      · refine ⟨h₁, h₂, h₃, h₄, by omega, by rw [List.length_cons]; omega, ?_⟩
        have e : p.2 - y0 = (p.2 - (y0 + 1)) + 1 := by omega
        simpa only [e, List.getElem_cons_succ] using h₇
    · rintro ⟨h₁, h₂, h₃, h₄, h₅, h₆, h₇⟩
      by_cases h : p.2 = y0
      · refine .inl ⟨h, by omega, h₁, h₃, h₄, ?_⟩
        simpa [h] using h₇
      · have e : p.2 - y0 = (p.2 - (y0 + 1)) + 1 := by omega
        refine .inr ⟨h₁, h₂, h₃, h₄, by omega, by rw [List.length_cons] at h₆; omega, ?_⟩
        simpa only [e, List.getElem_cons_succ] using h₇

theorem spritePixels_nodup (x0 y0 : Nat) (bs : List Byte) : (spritePixels x0 y0 bs).Nodup := by
  induction bs generalizing y0 with
  | nil => simp [spritePixels]
  | cons b bs ih =>
    refine List.Nodup.append (rowPixels_nodup x0 y0 b) (ih (y0 + 1)) fun p hp hp' => ?_
    have h := (mem_rowPixels.mp hp).1
    have h' := (mem_spritePixels.mp hp').2.2.2.2.1
    omega

theorem spritePixels_onScreen (x0 y0 : Nat) (bs : List Byte) : ∀ p ∈ spritePixels x0 y0 bs, p.1 < 64 ∧ p.2 < 32 :=
  fun _ hp => ⟨(mem_spritePixels.mp hp).1, (mem_spritePixels.mp hp).2.1⟩

end Sys2Proof.Machine
end

