-- ==== Sys2Proof/Laws/Encoding.lean ====
section
/-! SUPPORT. The fields of an encoded word, one lemma per format (30_encoding.md R70, R71), and a word put together from its fields. -/

namespace Sys2Proof

/-- The fields of format NNN. -/
theorem fields_encodeNNN (m : BitVec 4) (nnn : BitVec 12) : opMajor (encodeNNN m nnn) = m ∧ opNNN (encodeNNN m nnn) = nnn := by
  unfold opMajor opNNN encodeNNN
  exact ⟨BitVec.extractLsb'_append_eq_left, BitVec.extractLsb'_append_eq_right⟩

/-- The fields of formats XNN and X. -/
theorem fields_encodeXNN (m : BitVec 4) (x : RegId) (nn : Byte) :
    opMajor (encodeXNN m x nn) = m ∧ opX (encodeXNN m x nn) = x ∧ opNN (encodeXNN m x nn) = nn := by
  unfold opMajor opX opNN encodeXNN
  refine ⟨?_, ?_, BitVec.extractLsb'_append_eq_right⟩
  · rw [BitVec.extractLsb'_append_eq_of_le (by decide)]
    exact BitVec.extractLsb'_append_eq_left
  · rw [BitVec.extractLsb'_append_eq_of_le (by decide)]
    exact BitVec.extractLsb'_append_eq_right

/-- The fields of formats XY and XYN. -/
theorem fields_encodeXYN (m : BitVec 4) (x y : RegId) (n : BitVec 4) :
    opMajor (encodeXYN m x y n) = m ∧ opX (encodeXYN m x y n) = x ∧ opY (encodeXYN m x y n) = y ∧ opN (encodeXYN m x y n) = n := by
  unfold opMajor opX opY opN encodeXYN
  refine ⟨?_, ?_, ?_, BitVec.extractLsb'_append_eq_right⟩
  · rw [BitVec.extractLsb'_append_eq_of_le (by decide), BitVec.extractLsb'_append_eq_of_le (by decide)]
    exact BitVec.extractLsb'_append_eq_left
  · rw [BitVec.extractLsb'_append_eq_of_le (by decide), BitVec.extractLsb'_append_eq_of_le (by decide)]
    exact BitVec.extractLsb'_append_eq_right
  · rw [BitVec.extractLsb'_append_eq_of_le (by decide)]
    exact BitVec.extractLsb'_append_eq_right

/-- A word is its format NNN. -/
theorem encodeNNN_fields (w : Word) : encodeNNN (opMajor w) (opNNN w) = w := by
  unfold opMajor opNNN encodeNNN
  rw [BitVec.extractLsb'_append_extractLsb'_eq_extractLsb' (by decide), BitVec.extractLsb'_eq_self]

/-- A word is its format XNN. -/
theorem encodeXNN_fields (w : Word) : encodeXNN (opMajor w) (opX w) (opNN w) = w := by
  unfold opMajor opX opNN encodeXNN
  rw [BitVec.extractLsb'_append_extractLsb'_eq_extractLsb' (by decide), BitVec.extractLsb'_append_extractLsb'_eq_extractLsb' (by decide),
    BitVec.extractLsb'_eq_self]

/-- A word is its format XYN. -/
theorem encodeXYN_fields (w : Word) : encodeXYN (opMajor w) (opX w) (opY w) (opN w) = w := by
  unfold opMajor opX opY opN encodeXYN
  rw [BitVec.extractLsb'_append_extractLsb'_eq_extractLsb' (by decide), BitVec.extractLsb'_append_extractLsb'_eq_extractLsb' (by decide),
    BitVec.extractLsb'_append_extractLsb'_eq_extractLsb' (by decide), BitVec.extractLsb'_eq_self]

/-- A word is its two bytes joined, the high one first (20_memory.md R46). -/
theorem joinBytes_bytes (w : Word) : joinBytes (highByte w) (lowByte w) = w := by
  unfold joinBytes highByte lowByte
  rw [BitVec.extractLsb'_append_extractLsb'_eq_extractLsb' (by decide), BitVec.extractLsb'_eq_self]

/-- The two bytes of a joined word. -/
theorem bytes_joinBytes (hi lo : Byte) : highByte (joinBytes hi lo) = hi ∧ lowByte (joinBytes hi lo) = lo := by
  unfold joinBytes highByte lowByte
  exact ⟨BitVec.extractLsb'_append_eq_left, BitVec.extractLsb'_append_eq_right⟩

end Sys2Proof
end

