-- ==== Sys2Proof/Laws/Registers.lean ====
section
/-! SUPPORT. Registers and stack: read after write, and everything a push and a pop can do. -/

namespace Sys2Proof.Machine

/-- Read after write of a V register. -/
@[simp] theorem State.setV_getV (s : State) (x : RegId) (b : Byte) (z : RegId) :
    (s.setV x b).getV z = if z = x then b else s.getV z := by
  simp [State.setV, State.getV, Vector.getElem_set, BitVec.toNat_eq, eq_comm]

/-- The flag first and the result second: with X = 15 the result stays (40_step_cycle.md R98). -/
theorem State.setFlagThen_getV (s : State) (f : Byte) (x : RegId) (b : Byte) (z : RegId) :
    (s.setFlagThen f x b).getV z = if z = x then b else if z = 0xF#4 then f else s.getV z := by
  simp [State.setFlagThen]

/-- V0 to V[x] come from the list, the others stay. -/
theorem State.loadFirstRegs_getV (s : State) (x : RegId) (bs : List Byte) (z : RegId) :
    (s.loadFirstRegs x bs).getV z = if z.toNat ≤ x.toNat then bs.getD z.toNat 0#8 else s.getV z := by
  simp [State.loadFirstRegs, State.getV]

@[simp] theorem State.firstRegs_length (s : State) (x : RegId) : (s.firstRegs x).length = x.toNat + 1 := by
  simp [State.firstRegs]

/-- The `k`-th of V0 to V[x] is V[k]. -/
theorem State.firstRegs_getElem (s : State) (x : RegId) (k : Nat) (h : k < (s.firstRegs x).length) :
    (s.firstRegs x)[k] = s.getV (BitVec.ofNat 4 k) := by
  simp [State.firstRegs]

/-- A register number read back from its value. -/
@[simp] theorem ofNat_toNat_reg (z : RegId) : BitVec.ofNat 4 z.toNat = z := by
  simp

/-- A register and `I` written in either order. -/
theorem State.setI_setV (s : State) (a : Word) (x : RegId) (b : Byte) : (s.setI a).setV x b = (s.setV x b).setI a := rfl

/-- Everything `push` can do (10_state.md R15). -/
theorem State.push_cases (s : State) (a : Word) :
    (s.sp.val = 12 ∧ s.push a = none) ∨
    ∃ (h : s.sp.val < 12), s.push a = some { s with stack := s.stack.set s.sp.val a h, sp := ⟨s.sp.val + 1, by omega⟩ } := by
  unfold State.push
  split
  · rename_i h
    exact .inr ⟨h, rfl⟩
  · have := s.sp.isLt
    exact .inl ⟨by omega, rfl⟩

/-- Everything `pop` can do (R15). -/
theorem State.pop_cases (s : State) :
    (s.sp.val = 0 ∧ s.pop = none) ∨
    ∃ (_ : 0 < s.sp.val), s.pop = some (s.stack[s.sp.val - 1]'(by omega), { s with sp := ⟨s.sp.val - 1, by omega⟩ }) := by
  unfold State.pop
  split
  · rename_i h
    exact .inr ⟨h, rfl⟩
  · exact .inl ⟨by omega, rfl⟩

/-- A pushed slot holds the address, the others what they held. -/
theorem stack_set_getElem (st : Vector Word 12) (n : Nat) (h : n < 12) (a : Word) (k : Fin 12) :
    (st.set n a h)[k] = if k.val = n then a else st[k] := by
  simp [Vector.getElem_set, eq_comm]

/-! ### Timers -/

/-- One count down is a subtraction with floor 0 (10_state.md R16). -/
theorem countDown_toNat (b : Byte) : (countDown b).toNat = b.toNat - 1 := by
  unfold countDown
  split
  · rename_i h
    simp [h]
  · rename_i h
    have hb : b.toNat ≠ 0 := fun h' => h (BitVec.eq_of_toNat_eq (by simpa using h'))
    have := b.isLt
    rw [BitVec.toNat_sub]
    simp
    omega

end Sys2Proof.Machine
end

