-- ==== Sys2Proof/Laws/Step.lean ====
section
/-! SUPPORT. The ends of an instruction, the inputs of a step, and everything a step can do. -/

namespace Sys2Proof.Machine

/-- Everything the end of a checked instruction can be. -/
theorem State.completeOr_ok (s t : State) : s.completeOr (.ok t) = t.complete := rfl

theorem State.completeOr_error (s : State) (r : FaultReason) : s.completeOr (.error r) = s.raiseFault r := rfl

/-- The inputs of a step where the host's arguments are listed, and where they are not. -/
theorem State.keys_cons {s : State} {c : StepInput} {l : List StepInput} (h : s.inputs = c :: l) : s.keys = c.keys := by
  simp [State.keys, h]

theorem State.keys_nil {s : State} (h : s.inputs = []) : s.keys = none := by
  simp [State.keys, h]

theorem State.rand_cons {s : State} {c : StepInput} {l : List StepInput} (h : s.inputs = c :: l) : s.rand = c.rand := by
  simp [State.rand, h]

theorem State.rand_nil {s : State} (h : s.inputs = []) : s.rand = Config.freeRand s.freeIndex := by
  simp [State.rand, h]

/-- A key is pressed exactly where the host's next arguments say so (45_timers_and_keys.md R196). -/
theorem State.pressed_keys (s : State) (k : Nat) : pressed s.keys k = true ↔ s.keyDown k := by
  unfold State.keyDown
  cases hi : s.inputs with
  | nil => simp [State.keys_nil hi, pressed]
  | cons c l =>
    rw [State.keys_cons hi]
    cases hk : c.keys with
    | none => simp [pressed, hk]
    | some m =>
      by_cases h : k < 16
      · simp [pressed, hk, h]
      · simp [pressed, h]

/-- The least pressed key is pressed, and no lesser one is. -/
theorem leastPressed_some {keys : KeyState} {k : Nat} (h : leastPressed keys = some k) :
    k < 16 ∧ pressed keys k = true ∧ ∀ j, j < k → pressed keys j = false := by
  unfold leastPressed at h
  rw [List.find?_range_eq_some] at h
  exact ⟨List.mem_range.mp h.2.1, h.1, fun j hj => by simpa using h.2.2 j hj⟩

theorem leastPressed_none {keys : KeyState} (h : leastPressed keys = none) (k : Nat) (hk : k < 16) : pressed keys k = false := by
  unfold leastPressed at h
  simpa using List.find?_eq_none.mp h k (List.mem_range.mpr hk)

/-- Everything a step can do: repeat a terminal result, fault at the fetch, or execute the fetched instruction (40_step_cycle.md R90). -/
theorem step_cases {s t : State} (h : step s = .next t) :
    (s.status = .halted ∧ t = s.repeatHalted.finishStep) ∨
    (∃ r, s.status = .faulted r ∧ t = (s.repeatFaulted r).finishStep) ∨
    (s.status = .running ∧ ∃ r, s.fetch = .error r ∧ t = (s.raiseFault r).finishStep) ∨
    (s.status = .running ∧ ∃ op u, s.fetch = .ok op ∧ exec (decode op) s = .next u ∧ t = u.finishStep) := by
  unfold step at h
  split at h
  · rename_i hs
    exact .inl ⟨hs, by simpa using h.symm⟩
  · rename_i r hs
    exact .inr (.inl ⟨r, hs, by simpa using h.symm⟩)
  · rename_i hs
    split at h
    · rename_i r hf
      exact .inr (.inr (.inl ⟨hs, r, hf, by simpa using h.symm⟩))
    · rename_i op hf
      split at h
      · rename_i u hu
        exact .inr (.inr (.inr ⟨hs, op, u, hf, hu, by simpa using h.symm⟩))
      · simp at h
      · simp at h

/-- A step of a running machine that fetches is the instruction and the end of the step. -/
theorem step_of_fetch {s : State} {op : Word} (hs : s.status = .running) (hf : s.fetch = .ok op) :
    step s = match exec (decode op) s with
      | .next t => .next t.finishStep
      | .fault f => .fault f
      | .refused r => .refused r := by
  unfold step
  rw [hs]
  dsimp only
  rw [hf] <;> rfl

/-- A step that does not complete an instruction does not tick. -/
theorem State.finishStep_of_result {s : State} (h : s.result ≠ some .cont) : s.finishStep = s.nextInput := by
  unfold State.finishStep State.tickIfContinue
  simp [h]

/-- A completed step ticks exactly where `TICK_ON_STEP` holds. -/
theorem State.finishStep_of_cont {s : State} (h : s.result = some .cont) :
    s.finishStep = (if s.cfg.tickOnStep then s.tick else s).nextInput := by
  unfold State.finishStep State.tickIfContinue
  simp [h]

/-- A run of `n + 1` steps is a step and a run of `n`. -/
theorem run_next {s t : State} (n : Nat) (h : step s = .next t) :
    Host.Core.run Sys2Proof.core (n + 1) s = Host.Core.run Sys2Proof.core n t := by
  have h' : Sys2Proof.core.step s = .next t := h
  simp only [Host.Core.run]
  rw [h']

end Sys2Proof.Machine
end

