-- ==== Sys2Proof/Laws/Exec.lean ====
section
/-! SUPPORT. Everything an instruction can do, for those with more than one end, and the four ends of every instruction
(40_step_cycle.md R94). -/

namespace Sys2Proof.Machine

/-! ### A sprite drawn: what it leaves -/

@[simp] theorem State.drawSprite_i (s : State) (x0 y0 : Nat) (rows : List Byte) : (s.drawSprite x0 y0 rows).i = s.i := by
  simp [State.drawSprite]
@[simp] theorem State.drawSprite_pc (s : State) (x0 y0 : Nat) (rows : List Byte) : (s.drawSprite x0 y0 rows).pc = s.pc := by
  simp [State.drawSprite]
@[simp] theorem State.drawSprite_stack (s : State) (x0 y0 : Nat) (rows : List Byte) : (s.drawSprite x0 y0 rows).stack = s.stack := by
  simp [State.drawSprite]
@[simp] theorem State.drawSprite_sp (s : State) (x0 y0 : Nat) (rows : List Byte) : (s.drawSprite x0 y0 rows).sp = s.sp := by
  simp [State.drawSprite]
@[simp] theorem State.drawSprite_delay (s : State) (x0 y0 : Nat) (rows : List Byte) : (s.drawSprite x0 y0 rows).delay = s.delay := by
  simp [State.drawSprite]
@[simp] theorem State.drawSprite_sound (s : State) (x0 y0 : Nat) (rows : List Byte) : (s.drawSprite x0 y0 rows).sound = s.sound := by
  simp [State.drawSprite]
@[simp] theorem State.drawSprite_drawFlag (s : State) (x0 y0 : Nat) (rows : List Byte) : (s.drawSprite x0 y0 rows).drawFlag = true := rfl
@[simp] theorem State.drawSprite_status (s : State) (x0 y0 : Nat) (rows : List Byte) : (s.drawSprite x0 y0 rows).status = s.status := by
  simp [State.drawSprite]
@[simp] theorem State.drawSprite_cfg (s : State) (x0 y0 : Nat) (rows : List Byte) : (s.drawSprite x0 y0 rows).cfg = s.cfg := by
  simp [State.drawSprite]
@[simp] theorem State.drawSprite_inputs (s : State) (x0 y0 : Nat) (rows : List Byte) : (s.drawSprite x0 y0 rows).inputs = s.inputs := by
  simp [State.drawSprite]
@[simp] theorem State.drawSprite_freeIndex (s : State) (x0 y0 : Nat) (rows : List Byte) :
    (s.drawSprite x0 y0 rows).freeIndex = s.freeIndex := by
  simp [State.drawSprite]

theorem State.drawSprite_getV (s : State) (x0 y0 : Nat) (rows : List Byte) (z : RegId) :
    (s.drawSprite x0 y0 rows).getV z = if z = 0xF#4 then flagByte (s.collides (spritePixels x0 y0 rows)) else s.getV z := by
  simp [State.drawSprite]

/-- A pixel of the screen flips exactly where the sprite has a 1 for it. -/
theorem State.drawSprite_pixelGet (s : State) (x0 y0 : Nat) (rows : List Byte) {col row : Nat} (hc : col < 64) :
    (s.drawSprite x0 y0 rows).pixelGet col row =
      if (col, row) ∈ spritePixels x0 y0 rows then !s.pixelGet col row else s.pixelGet col row :=
  State.flipPixels_pixelGet s _ (spritePixels_onScreen x0 y0 rows) (spritePixels_nodup x0 y0 rows) hc

/-- A sprite changes no byte outside the framebuffer. -/
theorem State.drawSprite_byteAt (s : State) (x0 y0 : Nat) (rows : List Byte) {a : Nat}
    (ha : a < s.cfg.displayStart ∨ s.cfg.displayStart + 256 ≤ a) : (s.drawSprite x0 y0 rows).byteAt a = s.byteAt a :=
  State.flipPixels_byteAt s _ (spritePixels_onScreen x0 y0 rows) a ha

/-! ### The instructions with more than one end -/

/-- Everything 00EE can do. -/
theorem execRet_cases (s : State) :
    (s.sp.val = 0 ∧ execRet s = .next s.halt) ∨
    ∃ (_ : 0 < s.sp.val), execRet s =
      .next ({ s with sp := ⟨s.sp.val - 1, by omega⟩ }.setPc (s.stack[s.sp.val - 1]'(by omega))).complete := by
  unfold execRet
  rcases s.pop_cases with ⟨h0, h⟩ | ⟨h0, h⟩ <;> rw [h]
  · exact .inl ⟨h0, rfl⟩
  · exact .inr ⟨h0, rfl⟩

/-- Everything 2NNN can do. -/
theorem execCall_cases (nnn : BitVec 12) (s : State) :
    (s.sp.val = 12 ∧ execCall nnn s = .next (s.raiseFault .stackOverflow)) ∨
    ∃ (h : s.sp.val < 12), execCall nnn s =
      .next ({ s with stack := s.stack.set s.sp.val (s.pc + 2#16) h, sp := ⟨s.sp.val + 1, by omega⟩ }.setPc (addressOf nnn)).complete := by
  unfold execCall
  rcases s.push_cases (s.pc + 2#16) with ⟨h0, h⟩ | ⟨h0, h⟩ <;> rw [h]
  · exact .inl ⟨h0, rfl⟩
  · exact .inr ⟨h0, rfl⟩

/-- Everything FX1E can do. -/
theorem execAddI_cases (x : RegId) (s : State) :
    (65536 ≤ s.i.toNat + (s.getV x).toNat ∧ execAddI x s = .next (s.raiseFault .addressOverflow)) ∨
    (s.i.toNat + (s.getV x).toNat < 65536 ∧ execAddI x s =
      .next ((s.setI (BitVec.ofNat 16 (s.i.toNat + (s.getV x).toNat))).setV 0xF#4
        (flagByte (outsideMemory s.cfg.memSize (s.i.toNat + (s.getV x).toNat)))).advance.complete) := by
  unfold execAddI
  dsimp only
  split
  · rename_i h
    exact .inl ⟨h, rfl⟩
  · rename_i h
    exact .inr ⟨Nat.lt_of_not_le h, rfl⟩

/-- Everything FX0A can do. -/
theorem execLdVxK_cases (x : RegId) (s : State) :
    (leastPressed s.keys = none ∧ execLdVxK x s = .next s.await) ∨
    ∃ k, leastPressed s.keys = some k ∧ execLdVxK x s = .next (s.setV x (BitVec.ofNat 8 k)).advance.complete := by
  unfold execLdVxK
  cases h : leastPressed s.keys with
  | none => exact .inl ⟨rfl, rfl⟩
  | some k => exact .inr ⟨k, rfl, rfl⟩

/-- Everything DXYN can do. -/
theorem execDrw_cases (x y : RegId) (n : BitVec 4) (s : State) :
    ((∀ k, k < n.toNat → Readable s.cfg (s.i.toNat + k)) ∧ execDrw x y n s =
      .next (s.drawSprite (s.getV x).toNat (s.getV y).toNat ((List.range n.toNat).map fun k => s.byteAt (s.i.toNat + k))).advance.complete) ∨
    ∃ r, execDrw x y n s = .next (s.raiseFault r) ∧ (r = .outOfBounds ∨ r = .reservedAccess) := by
  unfold execDrw
  rcases s.readBlock_cases s.base n.toNat with ⟨h0, h⟩ | ⟨r, h, h0⟩ <;> rw [h]
  · exact .inl ⟨h0, rfl⟩
  · exact .inr ⟨r, rfl, h0⟩

/-- Everything FX65 can do. -/
theorem execLoadRegs_cases (x : RegId) (s : State) :
    ((∀ k, k < x.toNat + 1 → Readable s.cfg (s.i.toNat + k)) ∧ execLoadRegs x s =
      .next (s.loadFirstRegs x ((List.range (x.toNat + 1)).map fun k => s.byteAt (s.i.toNat + k))).advance.complete) ∨
    ∃ r, execLoadRegs x s = .next (s.raiseFault r) ∧ (r = .outOfBounds ∨ r = .reservedAccess) := by
  unfold execLoadRegs
  rcases s.readBlock_cases s.base (x.toNat + 1) with ⟨h0, h⟩ | ⟨r, h, h0⟩ <;> rw [h]
  · exact .inl ⟨h0, rfl⟩
  · exact .inr ⟨r, rfl, h0⟩

/-- Everything a store of a block at `I` can do. -/
theorem State.storeBlock_cases (s : State) (bs : List Byte) :
    ((∀ k, k < bs.length → Writable s.cfg (s.i.toNat + k)) ∧ s.completeOr (s.advance.writeBlock s.base bs) =
      ((s.advance.setBytes s.i.toNat bs).setDrawFlag
        (s.drawFlag || decide (∃ k, k < bs.length ∧ s.cfg.memSize - 256 ≤ s.i.toNat + k))).complete) ∨
    ∃ r, s.completeOr (s.advance.writeBlock s.base bs) = s.raiseFault r ∧ (r = .outOfBounds ∨ r = .reservedAccess ∨ r = .protectedWrite) := by
  rcases s.advance.writeBlock_cases s.base bs with ⟨h0, h⟩ | ⟨r, h, h0⟩ <;> rw [h]
  · exact .inl ⟨h0, rfl⟩
  · exact .inr ⟨r, rfl, h0⟩

/-! ### Every instruction -/

/-- How an instruction can end: completed, halted, waiting, or faulted with one of the reasons its checks give. -/
inductive Ends (i : Instr) (s t : State) : Prop where
  /-- The step returns `Continue`; status, parameters and inputs as they were. -/
  | done (result : t.result = some .cont) (status : t.status = s.status) (cfg : t.cfg = s.cfg)
      (inputs : t.inputs = s.inputs) (freeIndex : t.freeIndex = s.freeIndex)
  /-- 00EE at depth 0. -/
  | halted (instr : i = .ret) (depth : s.sp.val = 0) (state : t = s.halt)
  /-- FX0A with no key down. -/
  | waiting (instr : ∃ x, i = .ldVxK x) (state : t = s.await)
  /-- An instruction of `canFault`. -/
  | faulted (r : FaultReason) (instr : canFault i = true) (reason : r ≠ .stackUnderflow) (state : t = s.raiseFault r)

/-- The four ends of every instruction, and there is no other. -/
theorem exec_ends {i : Instr} {s t : State} (h : exec i s = .next t) : Ends i s t := by
  cases i
  case ret =>
    rcases execRet_cases s with ⟨h0, e⟩ | ⟨h0, e⟩ <;> cases e.symm.trans h
    · exact .halted rfl h0 rfl
    · exact .done rfl rfl rfl rfl rfl
  case call nnn =>
    rcases execCall_cases nnn s with ⟨h0, e⟩ | ⟨h0, e⟩ <;> cases e.symm.trans h
    · exact .faulted .stackOverflow rfl nofun rfl
    · exact .done rfl rfl rfl rfl rfl
  case addI x =>
    rcases execAddI_cases x s with ⟨h0, e⟩ | ⟨h0, e⟩ <;> cases e.symm.trans h
    · exact .faulted .addressOverflow rfl nofun rfl
    · exact .done rfl rfl rfl rfl rfl
  case ldVxK x =>
    rcases execLdVxK_cases x s with ⟨h0, e⟩ | ⟨k, h0, e⟩ <;> cases e.symm.trans h
    · exact .waiting ⟨x, rfl⟩ rfl
    · exact .done rfl rfl rfl rfl rfl
  case drw x y n =>
    rcases execDrw_cases x y n s with ⟨h0, e⟩ | ⟨r, e, h0⟩ <;> cases e.symm.trans h
    · exact .done rfl (by simp) (by simp) (by simp) (by simp)
    · exact .faulted r rfl (by rcases h0 with rfl | rfl <;> exact nofun) rfl
  case loadRegs x =>
    rcases execLoadRegs_cases x s with ⟨h0, e⟩ | ⟨r, e, h0⟩ <;> cases e.symm.trans h
    · exact .done rfl (by simp) (by simp) (by simp) (by simp)
    · exact .faulted r rfl (by rcases h0 with rfl | rfl <;> exact nofun) rfl
  case ldBcd x =>
    injection h with h
    rcases s.storeBlock_cases (decimalDigits (s.getV x)) with ⟨h0, e⟩ | ⟨r, e, h0⟩ <;> subst h <;> rw [e]
    · exact .done rfl (by simp) (by simp) (by simp) (by simp)
    · exact .faulted r rfl (by rcases h0 with rfl | rfl | rfl <;> exact nofun) rfl
  case storeRegs x =>
    injection h with h
    rcases s.storeBlock_cases (s.firstRegs x) with ⟨h0, e⟩ | ⟨r, e, h0⟩ <;> subst h <;> rw [e]
    · exact .done rfl (by simp) (by simp) (by simp) (by simp)
    · exact .faulted r rfl (by rcases h0 with rfl | rfl | rfl <;> exact nofun) rfl
  all_goals
    cases h
    exact .done rfl rfl rfl rfl rfl

/-! ### Frames -/

/-- A frame from the fields that are equal. -/
theorem Frame.of_eq {c : Changes} {s t : State} (hv : c.v = true ∨ t.v = s.v) (hi : c.i = true ∨ t.i = s.i)
    (hs : c.stack = true ∨ t.sp = s.sp ∧ t.stack = s.stack) (hd : c.delay = true ∨ t.delay = s.delay)
    (hso : c.sound = true ∨ t.sound = s.sound) (hdf : c.drawFlag = true ∨ t.drawFlag = s.drawFlag)
    (hm : c.memory = true ∨ t.mem = s.mem) (hst : c.status = true ∨ t.status = s.status) (hc : t.cfg = s.cfg)
    (hin : t.inputs = s.inputs) (hf : t.freeIndex = s.freeIndex) : Frame c s t where
  v h z := by
    rcases hv with e | e
    · simp [h] at e
    · simp [State.getV, e]
  i h := hi.resolve_left (by simp [h])
  stack h := by
    rcases hs with e | ⟨e₁, e₂⟩
    · simp [h] at e
    · exact ⟨e₁, fun k => by rw [e₂]⟩
  delay h := hd.resolve_left (by simp [h])
  sound h := hso.resolve_left (by simp [h])
  drawFlag h := hdf.resolve_left (by simp [h])
  memory h a := by
    rcases hm with e | e
    · simp [h] at e
    · simp [State.byteAt, e, hc]
  status h := hst.resolve_left (by simp [h])
  cfg := hc
  inputs := ⟨hin, hf⟩

end Sys2Proof.Machine
end

