-- ==== Sys2Proof/Laws/PerInstr.lean ====
section
/-! SUPPORT. One statement per instruction: its word lies in its row of the opcode table (30_encoding.md R74). -/

namespace Sys2Proof.Laws.TableRow

/-- The row of an instruction, as mask and match. The catch-all row of the reserved words has mask 0. -/
def rowOf : Instr → Word × Word
  | .cls => (0xFFFF, 0x00E0)
  | .ret => (0xFFFF, 0x00EE)
  | .jp _ => (0xF000, 0x1000)
  | .call _ => (0xF000, 0x2000)
  | .seImm _ _ => (0xF000, 0x3000)
  | .sneImm _ _ => (0xF000, 0x4000)
  | .seReg _ _ => (0xF00F, 0x5000)
  | .ldImm _ _ => (0xF000, 0x6000)
  | .addImm _ _ => (0xF000, 0x7000)
  | .ldReg _ _ => (0xF00F, 0x8000)
  | .orReg _ _ => (0xF00F, 0x8001)
  | .andReg _ _ => (0xF00F, 0x8002)
  | .xorReg _ _ => (0xF00F, 0x8003)
  | .addReg _ _ => (0xF00F, 0x8004)
  | .subReg _ _ => (0xF00F, 0x8005)
  | .shr _ _ => (0xF00F, 0x8006)
  | .subnReg _ _ => (0xF00F, 0x8007)
  | .shl _ _ => (0xF00F, 0x800E)
  | .sneReg _ _ => (0xF00F, 0x9000)
  | .ldI _ => (0xF000, 0xA000)
  | .jpV0 _ => (0xF000, 0xB000)
  | .rnd _ _ => (0xF000, 0xC000)
  | .drw _ _ _ => (0xF000, 0xD000)
  | .skp _ => (0xF0FF, 0xE09E)
  | .sknp _ => (0xF0FF, 0xE0A1)
  | .ldVxDt _ => (0xF0FF, 0xF007)
  | .ldVxK _ => (0xF0FF, 0xF00A)
  | .ldDtVx _ => (0xF0FF, 0xF015)
  | .ldStVx _ => (0xF0FF, 0xF018)
  | .addI _ => (0xF0FF, 0xF01E)
  | .ldFont _ => (0xF0FF, 0xF029)
  | .ldBcd _ => (0xF0FF, 0xF033)
  | .storeRegs _ => (0xF0FF, 0xF055)
  | .loadRegs _ => (0xF0FF, 0xF065)
  | .nopReserved _ => (0, 0)

/-- The encoded word has the fixed bits of the row. -/
def Statement (i : Instr) : Prop := encode i &&& (rowOf i).1 = (rowOf i).2

/-- The fixed bits of format NNN. -/
theorem encodeNNN_and (m : BitVec 4) (nnn : BitVec 12) : encodeNNN m nnn &&& 0xF#4 ++ 0#12 = m ++ 0#12 := by
  unfold encodeNNN
  rw [BitVec.and_append, show 0xF#4 = BitVec.allOnes 4 from rfl, BitVec.and_allOnes, BitVec.and_zero]

/-- The fixed bits of format XNN. -/
theorem encodeXNN_and (m : BitVec 4) (x : RegId) (nn : Byte) : encodeXNN m x nn &&& 0xF#4 ++ 0#4 ++ 0#8 = m ++ 0#4 ++ 0#8 := by
  unfold encodeXNN
  rw [BitVec.and_append, BitVec.and_append, show 0xF#4 = BitVec.allOnes 4 from rfl, BitVec.and_allOnes, BitVec.and_zero, BitVec.and_zero]

/-- The fixed bits of format X, its low byte among them. -/
theorem encodeX_and (m : BitVec 4) (x : RegId) (nn : Byte) : encodeXNN m x nn &&& 0xF#4 ++ 0#4 ++ 0xFF#8 = m ++ 0#4 ++ nn := by
  unfold encodeXNN
  rw [BitVec.and_append, BitVec.and_append, show 0xF#4 = BitVec.allOnes 4 from rfl, show 0xFF#8 = BitVec.allOnes 8 from rfl,
    BitVec.and_allOnes, BitVec.and_allOnes, BitVec.and_zero]

/-- The fixed bits of format XY, its low nibble among them. -/
theorem encodeXY_and (m : BitVec 4) (x y : RegId) (n : BitVec 4) :
    encodeXYN m x y n &&& 0xF#4 ++ 0#4 ++ 0#4 ++ 0xF#4 = m ++ 0#4 ++ 0#4 ++ n := by
  unfold encodeXYN
  rw [BitVec.and_append, BitVec.and_append, BitVec.and_append, show 0xF#4 = BitVec.allOnes 4 from rfl, BitVec.and_allOnes,
    BitVec.and_allOnes, BitVec.and_zero, BitVec.and_zero]

/-- The fixed bits of format XYN. -/
theorem encodeXYN_and (m : BitVec 4) (x y : RegId) (n : BitVec 4) :
    encodeXYN m x y n &&& 0xF#4 ++ 0#4 ++ 0#4 ++ 0#4 = m ++ 0#4 ++ 0#4 ++ 0#4 := by
  unfold encodeXYN
  rw [BitVec.and_append, BitVec.and_append, BitVec.and_append, show 0xF#4 = BitVec.allOnes 4 from rfl, BitVec.and_allOnes,
    BitVec.and_zero, BitVec.and_zero, BitVec.and_zero]

theorem cls : Statement .cls := rfl

theorem ret : Statement .ret := rfl

theorem jp (nnn : BitVec 12) : Statement (.jp nnn) := encodeNNN_and _ nnn

theorem call (nnn : BitVec 12) : Statement (.call nnn) := encodeNNN_and _ nnn

theorem ldI (nnn : BitVec 12) : Statement (.ldI nnn) := encodeNNN_and _ nnn

theorem jpV0 (nnn : BitVec 12) : Statement (.jpV0 nnn) := encodeNNN_and _ nnn

theorem seImm (x : RegId) (nn : Byte) : Statement (.seImm x nn) := encodeXNN_and _ x nn

theorem sneImm (x : RegId) (nn : Byte) : Statement (.sneImm x nn) := encodeXNN_and _ x nn

theorem ldImm (x : RegId) (nn : Byte) : Statement (.ldImm x nn) := encodeXNN_and _ x nn

theorem addImm (x : RegId) (nn : Byte) : Statement (.addImm x nn) := encodeXNN_and _ x nn

theorem rnd (x : RegId) (nn : Byte) : Statement (.rnd x nn) := encodeXNN_and _ x nn

theorem seReg (x y : RegId) : Statement (.seReg x y) := encodeXY_and _ x y _

theorem ldReg (x y : RegId) : Statement (.ldReg x y) := encodeXY_and _ x y _

theorem orReg (x y : RegId) : Statement (.orReg x y) := encodeXY_and _ x y _

theorem andReg (x y : RegId) : Statement (.andReg x y) := encodeXY_and _ x y _

theorem xorReg (x y : RegId) : Statement (.xorReg x y) := encodeXY_and _ x y _

theorem addReg (x y : RegId) : Statement (.addReg x y) := encodeXY_and _ x y _

theorem subReg (x y : RegId) : Statement (.subReg x y) := encodeXY_and _ x y _

theorem shr (x y : RegId) : Statement (.shr x y) := encodeXY_and _ x y _

theorem subnReg (x y : RegId) : Statement (.subnReg x y) := encodeXY_and _ x y _

theorem shl (x y : RegId) : Statement (.shl x y) := encodeXY_and _ x y _

theorem sneReg (x y : RegId) : Statement (.sneReg x y) := encodeXY_and _ x y _

theorem drw (x y : RegId) (n : BitVec 4) : Statement (.drw x y n) := encodeXYN_and _ x y n

theorem skp (x : RegId) : Statement (.skp x) := encodeX_and _ x _

theorem sknp (x : RegId) : Statement (.sknp x) := encodeX_and _ x _

theorem ldVxDt (x : RegId) : Statement (.ldVxDt x) := encodeX_and _ x _

theorem ldVxK (x : RegId) : Statement (.ldVxK x) := encodeX_and _ x _

theorem ldDtVx (x : RegId) : Statement (.ldDtVx x) := encodeX_and _ x _

theorem ldStVx (x : RegId) : Statement (.ldStVx x) := encodeX_and _ x _

theorem addI (x : RegId) : Statement (.addI x) := encodeX_and _ x _

theorem ldFont (x : RegId) : Statement (.ldFont x) := encodeX_and _ x _

theorem ldBcd (x : RegId) : Statement (.ldBcd x) := encodeX_and _ x _

theorem storeRegs (x : RegId) : Statement (.storeRegs x) := encodeX_and _ x _

theorem loadRegs (x : RegId) : Statement (.loadRegs x) := encodeX_and _ x _

theorem nopReserved (w : Word) : Statement (.nopReserved w) := BitVec.and_zero

end Sys2Proof.Laws.TableRow
end

