-- ==== Sys2Proof/Tests/Slice0.lean ====
section
/-! SUPPORT. Tests: the checks of WellFormed, words written out from the encodings of 30_encoding.md R74, one or two single steps per
instruction with the results of 95_test_vectors.md, and for every statement with hypotheses a witness that meets them. -/

namespace Sys2Proof.Tests

open Sys2Proof Sys2Proof.Machine

/-! ### Well-formedness -/

/-- The one check: a reserved word must match no row. 0x00E0 is CLS, 0x8120 a row of major 8, 0xF265 a row of major F. -/
theorem test_illFormed_refused :
    (Instr.nopReserved 0x00E0#16).wellFormed = false ∧ (Instr.nopReserved 0x8120#16).wellFormed = false ∧
    (Instr.nopReserved 0xF265#16).wellFormed = false ∧ (Instr.nopReserved 0x1000#16).wellFormed = false := by decide

theorem test_wellFormed_accepted :
    (Instr.nopReserved 0x0000#16).wellFormed = true ∧ (Instr.nopReserved 0x5121#16).wellFormed = true ∧
    (Instr.drw 15#4 15#4 15#4).wellFormed = true := by decide

/-- No two rows of the opcode table match one word: they differ in a bit that both fix. -/
theorem test_rows_disjoint : opcodePatterns.Pairwise fun p q => p.1 &&& q.1 &&& (p.2 ^^^ q.2) ≠ 0#16 := by decide +kernel

/-! ### Decoding: one word per row, its bits as 30_encoding.md R74 writes them -/

theorem test_decode_flow :
    decode 0b0000000011100000#16 = .cls ∧ decode 0b0000000011101110#16 = .ret ∧
    decode 0b0001101010111100#16 = .jp 0xABC#12 ∧ decode 0b0010000100100011#16 = .call 0x123#12 ∧
    decode 0b1011001100000000#16 = .jpV0 0x300#12 := by decide

theorem test_decode_skips :
    decode 0b0011111100000001#16 = .seImm 15#4 1#8 ∧ decode 0b0100001000001000#16 = .sneImm 2#4 8#8 ∧
    decode 0b0101000100100000#16 = .seReg 1#4 2#4 ∧ decode 0b1001101000110000#16 = .sneReg 10#4 3#4 := by decide

theorem test_decode_loads :
    decode 0b0110111110101011#16 = .ldImm 15#4 0xAB#8 ∧ decode 0b0111001100001010#16 = .addImm 3#4 10#8 ∧
    decode 0b1100000011111111#16 = .rnd 0#4 0xFF#8 := by decide

theorem test_decode_major8 :
    decode 0b1000111111100000#16 = .ldReg 15#4 14#4 ∧ decode 0b1000000000010001#16 = .orReg 0#4 1#4 ∧
    decode 0b1000001000010010#16 = .andReg 2#4 1#4 ∧ decode 0b1000001100010011#16 = .xorReg 3#4 1#4 ∧
    decode 0b1000000011110100#16 = .addReg 0#4 15#4 ∧ decode 0b1000000000010101#16 = .subReg 0#4 1#4 ∧
    decode 0b1000010100110110#16 = .shr 5#4 3#4 ∧ decode 0b1000000000010111#16 = .subnReg 0#4 1#4 ∧
    decode 0b1000011010011110#16 = .shl 6#4 9#4 := by decide

theorem test_decode_index_display :
    decode 0b1010111111111111#16 = .ldI 0xFFF#12 ∧ decode 0b1101000100100101#16 = .drw 1#4 2#4 5#4 ∧
    decode 0b1111001000011110#16 = .addI 2#4 ∧ decode 0b1111010000101001#16 = .ldFont 4#4 ∧
    decode 0b1111000100110011#16 = .ldBcd 1#4 ∧ decode 0b1111001101010101#16 = .storeRegs 3#4 ∧
    decode 0b1111111101100101#16 = .loadRegs 15#4 := by decide

theorem test_decode_timers_keys :
    decode 0b1110001010011110#16 = .skp 2#4 ∧ decode 0b1110011110100001#16 = .sknp 7#4 ∧
    decode 0b1111000100000111#16 = .ldVxDt 1#4 ∧ decode 0b1111010100001010#16 = .ldVxK 5#4 ∧
    decode 0b1111000000010101#16 = .ldDtVx 0#4 ∧ decode 0b1111001100011000#16 = .ldStVx 3#4 := by decide

/-- Words of 30_encoding.md R75: 0NNN, a near miss of CLS, and one of each major with a reserved space. -/
theorem test_decode_reserved :
    decode 0b0000000100100011#16 = .nopReserved 0x0123#16 ∧ decode 0b0000000011100001#16 = .nopReserved 0x00E1#16 ∧
    decode 0b0101000100100001#16 = .nopReserved 0x5121#16 ∧ decode 0b1000000100101000#16 = .nopReserved 0x8128#16 ∧
    decode 0b1001000100100001#16 = .nopReserved 0x9121#16 ∧ decode 0b1110000110011111#16 = .nopReserved 0xE19F#16 ∧
    decode 0b1111000111111111#16 = .nopReserved 0xF1FF#16 := by decide

/-- The high byte comes first, and one byte is no instruction. -/
theorem test_decodeBytes :
    decodeBytes [0x12#8, 0x04#8, 0xFF#8] = .ok (.jp 0x204#12, [0xFF#8]) ∧ decodeBytes [0x12#8] = .error .truncated ∧
    decodeBytes [] = .error .truncated ∧ encodeBytes (.jp 0x204#12) = [0x12#8, 0x04#8] := by decide

theorem test_decodeTableWord : decodeTableWord 16 0x2208 = some (.call 0x208#12) := by decide

/-! ### One step -/

/-- Reset with V registers set. -/
def withV (l : List (RegId × Byte)) : State := l.foldl (fun s p => s.setV p.1 p.2) State.reset

/-- Bytes placed in memory. -/
def place (a : Nat) (bs : List Byte) (s : State) : State := s.setBytes a bs

/-- The state after one step that runs the word `w`; the state itself where the step gives no next state. -/
def ran (w : Nat) (s : State) : State :=
  match step (s.withFetchWord 16 w) with
  | .next t => t
  | .fault _ => s
  | .refused _ => s

/-- A call of `step` with the given keys down and this random byte. -/
def calledWith (down : List Nat) (rand : Byte) (s : State) : State :=
  { s with inputs := [⟨some (Vector.ofFn fun k : Fin 16 => down.contains k.val), rand⟩] }

theorem test_nopReserved :
    (ran 0x8128 (withV [(1, 1), (2, 2), (15, 3)])).pc = 0x202#16 ∧ (ran 0x8128 (withV [(1, 1), (2, 2), (15, 3)])).v =
      (withV [(1, 1), (2, 2), (15, 3)]).v ∧ (ran 0x8128 State.reset).result = some .cont := by decide

theorem test_nopReserved_tick_floor :
    (ran 0 { State.reset with delay := 1#8, sound := 0#8 }).delay = 0#8 ∧
    (ran 0 { State.reset with delay := 1#8, sound := 0#8 }).sound = 0#8 := by decide

theorem test_ret_pops :
    (ran 0x00EE { State.reset with pc := 0x500#16, sp := 2, stack := State.reset.stack.set 1 0x30A#16 }).pc = 0x30A#16 ∧
    (ran 0x00EE { State.reset with pc := 0x500#16, sp := 2, stack := State.reset.stack.set 1 0x30A#16 }).sp = 1 := by decide

theorem test_ret_halts :
    (ran 0x00EE State.reset).status = .halted ∧ (ran 0x00EE State.reset).pc = 0x200#16 ∧ (ran 0x00EE State.reset).delay = 60#8 ∧
    (ran 0x00EE State.reset).result = some .halted := by decide

theorem test_jp : (ran 0x1FFF State.reset).pc = 0xFFF#16 ∧ (ran 0x1FFF State.reset).delay = 59#8 := by decide

theorem test_call :
    (ran 0x2208 { State.reset with pc := 0x400#16, sp := 11 }).stack[11] = 0x402#16 ∧
    (ran 0x2208 { State.reset with pc := 0x400#16, sp := 11 }).sp = 12 ∧
    (ran 0x2208 { State.reset with pc := 0x400#16, sp := 11 }).pc = 0x208#16 := by decide

theorem test_call_overflow :
    (ran 0x2208 { State.reset with sp := 12 }).status = .faulted .stackOverflow ∧ (ran 0x2208 { State.reset with sp := 12 }).pc = 0x200#16 ∧
    (ran 0x2208 { State.reset with sp := 12 }).delay = 60#8 := by decide

theorem test_seImm : (ran 0x3F01 (withV [(15, 1)])).pc = 0x204#16 ∧ (ran 0x3100 (withV [(1, 4)])).pc = 0x202#16 := by decide

theorem test_sneImm : (ran 0x4F01 (withV [(15, 1)])).pc = 0x202#16 ∧ (ran 0x4208 (withV [(2, 7)])).pc = 0x204#16 := by decide

theorem test_seReg : (ran 0x5120 (withV [(1, 7), (2, 7)])).pc = 0x204#16 ∧ (ran 0x5120 (withV [(1, 7), (2, 8)])).pc = 0x202#16 := by decide

theorem test_sneReg : (ran 0x9120 (withV [(1, 7), (2, 8)])).pc = 0x204#16 ∧ (ran 0x9AA0 (withV [(10, 3)])).pc = 0x202#16 := by decide

theorem test_jpV0 : (ran 0xB300 (withV [(0, 4), (3, 9)])).pc = 0x304#16 ∧ (ran 0xBFFF (withV [(0, 0xFF)])).pc = 0x10FE#16 := by decide

theorem test_ldImm : (ran 0x6FAB State.reset).getV 15 = 0xAB#8 := by decide

theorem test_addImm :
    (ran 0x730A (withV [(3, 250)])).getV 3 = 4#8 ∧ (ran 0x7001 (withV [(0, 0xFF), (15, 7)])).getV 15 = 7#8 := by decide

theorem test_ldReg : (ran 0x8FE0 (withV [(14, 0x77), (15, 1)])).getV 15 = 0x77#8 := by decide

theorem test_orReg :
    (ran 0x8011 (withV [(0, 0x0C), (1, 0x0A), (15, 1)])).getV 0 = 0x0E#8 ∧ (ran 0x8011 (withV [(0, 0x0C), (1, 0x0A), (15, 1)])).getV 15 = 1#8 := by
  decide

theorem test_andReg : (ran 0x8012 (withV [(0, 0x0C), (1, 0x0A), (15, 1)])).getV 0 = 0x08#8 := by decide

theorem test_xorReg :
    (ran 0x8013 (withV [(0, 0x0C), (1, 0x0A), (15, 1)])).getV 0 = 0x06#8 ∧ (ran 0x8003 (withV [(0, 0x5A)])).getV 0 = 0#8 := by decide

theorem test_addReg :
    (ran 0x8014 (withV [(0, 200), (1, 100)])).getV 0 = 44#8 ∧ (ran 0x8014 (withV [(0, 200), (1, 100)])).getV 15 = 1#8 ∧
    (ran 0x8014 (withV [(0, 0xFF), (1, 0), (15, 9)])).getV 15 = 0#8 := by decide

theorem test_addReg_VF : (ran 0x80F4 (withV [(0, 250), (15, 10)])).getV 0 = 4#8 ∧ (ran 0x8F14 (withV [(15, 200), (1, 100)])).getV 15 = 44#8 := by
  decide

theorem test_subReg :
    (ran 0x8015 (withV [(0, 10), (1, 15)])).getV 0 = 251#8 ∧ (ran 0x8015 (withV [(0, 10), (1, 15)])).getV 15 = 0#8 ∧
    (ran 0x8015 (withV [(0, 5), (1, 5)])).getV 15 = 1#8 := by decide

theorem test_subReg_VF : (ran 0x80F5 (withV [(0, 3), (15, 5)])).getV 0 = 0xFE#8 ∧ (ran 0x8F15 (withV [(15, 3), (1, 5)])).getV 15 = 0xFE#8 := by
  decide

theorem test_shr :
    (ran 0x8016 (withV [(0, 0xFF), (1, 0xAA)])).getV 0 = 0x7F#8 ∧ (ran 0x8016 (withV [(0, 0xFF), (1, 0xAA)])).getV 15 = 1#8 ∧
    (ran 0x8016 (withV [(0, 0xFF), (1, 0xAA)])).getV 1 = 0xAA#8 := by decide

theorem test_shr_VF : (ran 0x8F06 (withV [(15, 7)])).getV 15 = 3#8 ∧ (ran 0x8006 (withV [(15, 1)])).getV 15 = 0#8 := by decide

theorem test_subnReg :
    (ran 0x8017 (withV [(0, 1), (1, 0)])).getV 0 = 0xFF#8 ∧ (ran 0x8017 (withV [(0, 1), (1, 0)])).getV 15 = 0#8 ∧
    (ran 0x8F17 (withV [(15, 3), (1, 5)])).getV 15 = 2#8 := by decide

theorem test_shl :
    (ran 0x801E (withV [(0, 0xFF), (1, 0)])).getV 0 = 0xFE#8 ∧ (ran 0x801E (withV [(0, 0xFF), (1, 0)])).getV 15 = 1#8 ∧
    (ran 0x800E (withV [(0, 0x40), (15, 1)])).getV 15 = 0#8 := by decide

theorem test_rnd :
    (ran 0xC0FF (calledWith [] 0xA7#8 State.reset)).getV 0 = 0xA7#8 ∧ (ran 0xCF3C (calledWith [] 0xFF#8 State.reset)).getV 15 = 0x3C#8 := by decide

theorem test_ldI : (ran 0xAFFF State.reset).i = 0xFFF#16 := by decide

theorem test_addI :
    (ran 0xF21E { withV [(2, 2), (15, 1)] with i := 0xFFD#16 }).i = 0xFFF#16 ∧
    (ran 0xF21E { withV [(2, 2), (15, 1)] with i := 0xFFD#16 }).getV 15 = 0#8 ∧
    (ran 0xF21E { withV [(2, 3)] with i := 0xFFD#16 }).i = 0x1000#16 ∧ (ran 0xF21E { withV [(2, 3)] with i := 0xFFD#16 }).getV 15 = 1#8 := by decide

theorem test_addI_overflow :
    (ran 0xF01E { withV [(0, 1)] with i := 0xFFFF#16 }).status = .faulted .addressOverflow ∧
    (ran 0xF01E { withV [(0, 1)] with i := 0xFFFF#16 }).i = 0xFFFF#16 ∧ (ran 0xFF1E { withV [(15, 5)] with i := 0x300#16 }).i = 0x305#16 := by decide

theorem test_ldFont : (ran 0xF029 (withV [(0, 0x0F)])).i = 0x4B#16 ∧ (ran 0xF029 (withV [(0, 0xFF)])).i = 0x4FB#16 := by decide

theorem test_ldBcd :
    (ran 0xF033 { withV [(0, 128)] with i := 0xFFD#16 }).byteAt 0xFFD = 1#8 ∧ (ran 0xF033 { withV [(0, 128)] with i := 0xFFD#16 }).byteAt 0xFFE = 2#8 ∧
    (ran 0xF033 { withV [(0, 128)] with i := 0xFFD#16 }).byteAt 0xFFF = 8#8 ∧ (ran 0xF033 { withV [(0, 128)] with i := 0xFFD#16 }).drawFlag = true := by
  decide

theorem test_ldBcd_faults :
    (ran 0xF033 { withV [(0, 128)] with i := 0x04E#16 }).status = .faulted .protectedWrite ∧
    (ran 0xF033 { withV [(0, 128)] with i := 0xE9E#16 }).status = .faulted .reservedAccess ∧
    (ran 0xF033 { withV [(0, 128)] with i := 0xE9E#16 }).byteAt 0xE9E = 0#8 ∧
    (ran 0xF033 { withV [(0, 128)] with i := 0xFFE#16 }).status = .faulted .outOfBounds := by decide

theorem test_storeRegs :
    (ran 0xF255 { withV [(0, 1), (1, 2), (2, 3), (3, 4)] with i := 0x300#16 }).byteAt 0x300 = 1#8 ∧
    (ran 0xF255 { withV [(0, 1), (1, 2), (2, 3), (3, 4)] with i := 0x300#16 }).byteAt 0x302 = 3#8 ∧
    (ran 0xF255 { withV [(0, 1), (1, 2), (2, 3), (3, 4)] with i := 0x300#16 }).byteAt 0x303 = 0#8 ∧
    (ran 0xF255 { withV [(0, 1), (1, 2), (2, 3), (3, 4)] with i := 0x300#16 }).i = 0x300#16 := by decide

theorem test_storeRegs_fault :
    (ran 0xF155 { withV [(0, 1), (1, 2)] with i := 0xFFF#16 }).status = .faulted .outOfBounds ∧
    (ran 0xF155 { withV [(0, 1), (1, 2)] with i := 0xFFF#16 }).byteAt 0xFFF = 0#8 := by decide

theorem test_loadRegs :
    (ran 0xF265 (withV [(3, 9)])).getV 0 = 0xF0#8 ∧ (ran 0xF265 (withV [(3, 9)])).getV 2 = 0x90#8 ∧ (ran 0xF265 (withV [(3, 9)])).getV 3 = 9#8 ∧
    (ran 0xF065 { State.reset with i := 0x200#16 }).getV 0 = 0xF0#8 := by decide

theorem test_loadRegs_fault :
    (ran 0xF165 { State.reset with i := 0xE9F#16 }).status = .faulted .reservedAccess ∧
    (ran 0xF165 { withV [(0, 5)] with i := 0xFFF#16 }).getV 0 = 5#8 := by decide

theorem test_cls :
    (ran 0x00E0 (place 0xF00 [0xFF#8] (place 0xE9F [5#8] State.reset))).byteAt 0xF00 = 0#8 ∧
    (ran 0x00E0 (place 0xF00 [0xFF#8] (place 0xE9F [5#8] State.reset))).byteAt 0xE9F = 5#8 ∧ (ran 0x00E0 State.reset).drawFlag = true := by decide

theorem test_drw_glyph :
    (ran 0xD012 (withV [(0, 4), (1, 1)])).byteAt 0xF08 = 0x0F#8 ∧ (ran 0xD012 (withV [(0, 4), (1, 1)])).byteAt 0xF10 = 0x09#8 ∧
    (ran 0xD012 (withV [(0, 4), (1, 1)])).getV 15 = 0#8 := by decide +kernel

theorem test_drw_clip_collide :
    (ran 0xD011 (place 0x300 [0xFF#8] { withV [(0, 60)] with i := 0x300#16 })).byteAt 0xF07 = 0x0F#8 ∧
    (ran 0xD011 (place 0x300 [0xC0#8] (place 0xF00 [0x40#8] { State.reset with i := 0x300#16 }))).byteAt 0xF00 = 0x80#8 ∧
    (ran 0xD011 (place 0x300 [0xC0#8] (place 0xF00 [0x40#8] { State.reset with i := 0x300#16 }))).getV 15 = 1#8 := by decide +kernel

theorem test_skp :
    (ran 0xE29E (calledWith [7] 0#8 (withV [(2, 7)]))).pc = 0x204#16 ∧ (ran 0xE29E (calledWith [1, 7] 0#8 (withV [(2, 0x17)]))).pc = 0x202#16 := by
  decide

theorem test_sknp :
    (ran 0xE2A1 (calledWith [7] 0#8 (withV [(2, 7)]))).pc = 0x202#16 ∧ (ran 0xE2A1 (withV [(2, 7)])).pc = 0x204#16 := by decide

theorem test_ldVxDt : (ran 0xF007 State.reset).getV 0 = 60#8 ∧ (ran 0xF007 State.reset).delay = 59#8 := by decide

theorem test_ldDtVx : (ran 0xF015 (withV [(0, 1)])).delay = 0#8 ∧ (ran 0xF015 (withV [(0, 255)])).delay = 254#8 := by decide

theorem test_ldStVx : (ran 0xF318 (withV [(3, 2)])).sound = 1#8 ∧ (ran 0xF318 (withV [(3, 2)])).delay = 59#8 := by decide

theorem test_ldVxK_waits :
    (ran 0xF50A (withV [(5, 9)])).result = some .awaitingKey ∧ (ran 0xF50A (withV [(5, 9)])).pc = 0x200#16 ∧
    (ran 0xF50A (withV [(5, 9)])).delay = 60#8 ∧ (ran 0xF50A (withV [(5, 9)])).getV 5 = 9#8 := by decide

theorem test_ldVxK_least :
    (ran 0xF50A (calledWith [3, 9] 0#8 State.reset)).getV 5 = 3#8 ∧ (ran 0xF50A (calledWith [15] 0#8 State.reset)).getV 5 = 15#8 := by decide

/-- The fetch: 95_test_vectors.md section 2.1, the rows "(fetch)". -/
theorem test_fetch_faults :
    (ran 0 { State.reset with pc := 0xFFF#16 }).status = .faulted .outOfBounds ∧
    (ran 0 { State.reset with pc := 0x201#16 }).status = .faulted .misalignedFetch ∧
    (ran 0 { State.reset with pc := 0xEA0#16 }).status = .faulted .reservedAccess ∧
    (ran 0 { State.reset with pc := 0x1001#16 }).status = .faulted .outOfBounds := by decide

/-- The framebuffer and the font can be fetched from. -/
theorem test_fetch_anywhere : (ran 0 { State.reset with pc := 0xF00#16 }).pc = 0xF02#16 ∧ (ran 0xF090 { State.reset with pc := 0#16 }).pc = 2#16 := by
  decide

theorem test_terminal :
    (ran 0 { State.reset with status := .halted }).result = some .halted ∧ (ran 0 { State.reset with status := .halted }).delay = 60#8 ∧
    (ran 0 { State.reset with status := .faulted .outOfBounds }).result = some (.faulted .outOfBounds) := by decide

/-- Construction: 95_test_vectors.md section 2.7, at the smallest size. -/
theorem test_construct_smallest :
    (construct { memSize := 865, tickOnStep := true, font := defaultFont } [0#8, 0#8]).toOption = none ∧
    (construct { memSize := 864, tickOnStep := true, font := defaultFont } []).toOption = none ∧
    Config.maxRomLen { memSize := 865, tickOnStep := true, font := defaultFont } = 1 := by decide

/-! ### Witnesses: the hypotheses of each statement are met, at the ends of their ranges -/

/-- The canonical machine, and the smallest and the largest size. -/
def canonical : Config := { memSize := 4096, tickOnStep := true, font := defaultFont }

def smallest : Config := { canonical with memSize := 865 }

def largest : Config := { canonical with memSize := 65536, tickOnStep := false }

/-- `s` with the address register at `a`. -/
def atI (a : Word) (s : State) : State := { s with i := a }

theorem construct_of_fits {c : Config} {rom : List Byte} (h : 865 ≤ c.memSize) (h' : c.memSize ≤ 65536) (hr : rom.length ≤ c.maxRomLen) :
    ∃ s, construct c rom = .ok s := by
  unfold construct
  rw [if_neg (Nat.not_lt.mpr h), if_neg (Nat.not_lt.mpr h'), if_neg (Nat.not_lt.mpr hr)]
  exact ⟨_, rfl⟩

theorem witness_ConstructedRegistersAndEntry :
    (∃ s, construct canonical [0x22#8, 0x08#8, 0xF2#8] = .ok s) ∧ [0x22#8, 0x08#8, 0xF2#8] = 0x22#8 :: 0x08#8 :: [0xF2#8] ∧ (63 < 64 ∧ 31 < 32) :=
  ⟨construct_of_fits (by decide) (by decide) (by decide), rfl, by decide⟩

theorem witness_ConstructedMemoryAndFlags :
    (∃ s, construct smallest [0xAB#8] = .ok s) ∧ (∃ s, construct largest [] = .ok s) ∧ 79 < 80 ∧ 0 < [0xAB#8].length ∧ 511 < 512 ∧ 512 + [0xAB#8].length ≤ 513 :=
  ⟨construct_of_fits (by decide) (by decide) (by decide), construct_of_fits (by decide) (by decide) (by decide), by decide⟩

theorem witness_ConstructErrors :
    { canonical with memSize := 864 }.memSize < 865 ∧ 65536 < { canonical with memSize := 65537 }.memSize ∧
    (smallest.Legal ∧ smallest.memSize - 864 < [0#8, 0#8].length) ∧ (smallest.Legal ∧ [0#8].length ≤ smallest.memSize - 864) ∧ largest.Legal := by
  decide

theorem witness_ConstructionMeetsInvariant : ∃ s, construct largest [0x12#8, 0x00#8] = .ok s :=
  construct_of_fits (by decide) (by decide) (by decide)

/-- A state that meets the invariant and is not reset: a return address on the stack, a call instruction in memory, a pixel on. -/
def busy : State :=
  { State.reset with sp := 1, stack := State.reset.stack.set 0 0x206#16, mem := [(512, 0x22#8), (513, 0x08#8), (4095, 1#8)] }

theorem witness_busy_inv : busy.Inv where
  legal := by decide
  canonical := by decide
  inside := by decide
  font := by decide
  returns := by decide

theorem witness_StepKeepsInvariant : ∃ s t, s.Inv ∧ step s = .next t ∧ t.sp.val = 2 :=
  ⟨busy, _, witness_busy_inv, rfl, rfl⟩

theorem witness_HostOperationsKeepInvariant : ∃ s : State, s.Inv ∧ s.delay = 60#8 := ⟨busy, witness_busy_inv, rfl⟩

theorem witness_StepRunsDecodedInstruction :
    busy.status = .running ∧ fetchFault busy.cfg busy.pc.toNat = none ∧
    decodeBytes [busy.byteAt busy.pc.toNat, busy.byteAt (busy.pc.toNat + 1)] = .ok (.call 0x208#12, []) ∧ (Instr.call 0x208#12).wellFormed = true := by
  decide

/-- One completed step that ticks, one that does not because the machine does not tick on a step, and one that waits. -/
theorem witness_TickAfterCompletedInstruction :
    busy.status = .running ∧ busy.fetch = .ok 0x2208#16 ∧ (∃ u, exec (decode 0x2208#16) busy = .next u ∧ u.result = some .cont) ∧
    busy.cfg.tickOnStep = true ∧ (∃ u, exec (decode 0x2208#16) { busy with cfg := { busy.cfg with tickOnStep := false } } = .next u) ∧
    ∃ u, exec (decode 0xF50A#16) busy = .next u ∧ u.result ≠ some .cont :=
  ⟨by decide, by decide, ⟨_, rfl, rfl⟩, by decide, ⟨_, rfl⟩, ⟨_, rfl, by decide⟩⟩

/-- The last `pc` in bounds and the first out of bounds; both bytes at the ends of the reserved region; an odd `pc`. -/
theorem witness_FetchFaultsInOrder :
    canonical.memSize ≤ 0xFFF + 1 ∧ (0xFFE + 1 < canonical.memSize ∧ Readable canonical 0xFFE ∧ Readable canonical 0xFFF) ∧
    (Readable canonical 0xE9F ∧ ¬Readable canonical 0xEA0) ∧ (¬Readable canonical 0xEFF ∧ Readable canonical 0xF00) ∧
    (Readable canonical 0x201 ∧ Readable canonical 0x202 ∧ 0x201 % 2 = 1) := by
  decide

theorem witness_FetchIsBigEndian :
    busy.pc.toNat % 2 = 0 ∧ Readable busy.cfg busy.pc.toNat ∧ Readable busy.cfg (busy.pc.toNat + 1) ∧
    Readable smallest 0x1FF ∧ Readable smallest 0x200 ∧ ¬Readable smallest 0x201 := by
  decide

theorem witness_TerminalStatesStay :
    { State.reset with status := .halted }.status ≠ .running ∧ { State.reset with status := .faulted .stackOverflow }.status ≠ .running := by
  decide

theorem witness_HaltOnlyByReturnAtDepthZero :
    ∃ s t, s.status = .running ∧ step s = .next t ∧ t.status = .halted ∧ s.fetch = .ok 0x00EE#16 ∧ s.sp.val = 0 :=
  ⟨State.reset.withFetchWord 16 0x00EE, _, rfl, rfl, by decide, by decide, rfl⟩

theorem witness_FaultsArePrecise : ∃ s t, s.status = .running ∧ step s = .next t ∧ t.status = .faulted .misalignedFetch :=
  ⟨{ State.reset with pc := 0x201#16 }, _, rfl, rfl, by decide⟩

theorem witness_OnlyListedInstructionsFault :
    canFault (.ret) = false ∧ canFault (.ldVxK 0#4) = false ∧ State.reset.status = .running ∧ ∃ t, exec (.ldVxK 0#4) State.reset = .next t :=
  ⟨rfl, rfl, rfl, _, rfl⟩

theorem witness_StackUnderflowNeverRaised : ∃ s t, s.status = .running ∧ s.sp.val = 0 ∧ step s = .next t :=
  ⟨State.reset.withFetchWord 16 0x00EE, _, rfl, rfl, rfl⟩

theorem witness_StepResultTellsStatus : ∃ t, step busy = .next t := ⟨_, rfl⟩

theorem witness_InputsReadByFourInstructionsOnly : readsInput (.drw 0#4 1#4 5#4) = false ∧ readsInput (.loadRegs 15#4) = false := by decide

theorem witness_MemoryWrittenByFourInstructionsOnly :
    writesMemory (.loadRegs 3#4) = false ∧ ∃ t, exec (.loadRegs 3#4) State.reset = .next t := ⟨rfl, _, rfl⟩

theorem witness_OnlyNamedStateChanges :
    (∃ t, exec (.addReg 1#4 2#4) State.reset = .next t) ∧ writesV (.addReg 1#4 2#4) 0#4 = false ∧ writesV (.loadRegs 14#4) 15#4 = false ∧
    (∀ a, Instr.ret ≠ .call a) ∧ (∀ a, Instr.addReg 1#4 2#4 ≠ .call a) ∧ Instr.addReg 1#4 2#4 ≠ .ret :=
  ⟨⟨_, rfl⟩, by decide, by decide, nofun, nofun, nofun⟩

/-- FX55 with X = 15 at `pc + 2`: the next instruction is the first pair of the block; and with `I` two lower, a later pair. -/
theorem witness_StoredBytesAreFetchedNext :
    (∃ t, exec (.storeRegs 15#4) (atI 0x202#16 State.reset) = .next t ∧ t.result = some .cont ∧
      t.pc.toNat = (atI 0x202#16 State.reset).i.toNat + 0 ∧ t.pc.toNat % 2 = 0 ∧ 0 + 1 ≤ (15#4).toNat) ∧
    (∃ t, exec (.storeRegs 15#4) (atI 0x1F4#16 State.reset) = .next t ∧ t.result = some .cont ∧
      t.pc.toNat = (atI 0x1F4#16 State.reset).i.toNat + 14 ∧ t.pc.toNat % 2 = 0 ∧ 14 + 1 ≤ (15#4).toNat) :=
  ⟨⟨_, rfl, by decide, by decide, by decide, by decide⟩, ⟨_, rfl, by decide, by decide, by decide, by decide⟩⟩

theorem witness_ReservedWordIsNoOp :
    State.reset.status = .running ∧ State.reset.fetch = .ok 0x0000#16 ∧ isReservedWord 0x0000#16 = true ∧ isReservedWord 0xFFFF#16 = true := by decide

theorem witness_DecodeInvertsEncode : (Instr.nopReserved 0x5001#16).wellFormed = true ∧ (Instr.seReg 15#4 0#4).wellFormed = true := by decide

theorem witness_CallPushesAndJumps :
    State.reset.sp.val < 12 ∧ { State.reset with sp := 11 }.sp.val < 12 ∧ { State.reset with sp := 12 }.sp.val = 12 := by decide

theorem witness_ReturnPopsOrHalts :
    { State.reset with sp := 1 }.sp.val = (0 : Fin 12).val + 1 ∧ { State.reset with sp := 12 }.sp.val = (11 : Fin 12).val + 1 ∧
    State.reset.sp.val = 0 := by decide

theorem witness_CallThenReturnComesBack : ∃ t, exec (.call 0x208#12) { State.reset with sp := 11 } = .next t ∧ t.result = some .cont :=
  ⟨_, rfl, rfl⟩

theorem witness_AddWithCarry : (15#4 : RegId) ≠ 0#4 ∧ (0#4 : RegId) ≠ 15#4 ∧ (1#4 : RegId) ≠ 15#4 := by decide

theorem witness_SubtractWithNotBorrow : (0#4 : RegId) ≠ 15#4 ∧ (1#4 : RegId) ≠ 0#4 ∧ (1#4 : RegId) ≠ 15#4 := by decide

theorem witness_ShiftsByOne : (14#4 : RegId) ≠ 15#4 ∧ (1#4 : RegId) ≠ 14#4 ∧ (1#4 : RegId) ≠ 15#4 := by decide

theorem witness_RandomByteIsMasked :
    (calledWith [] 0xA7#8 State.reset).inputs ≠ [] ∧ State.reset.inputs = [] := by decide

theorem witness_AddToAddressRegister :
    (atI 0xFF00#16 (withV [(0, 0xFF)])).i.toNat + ((atI 0xFF00#16 (withV [(0, 0xFF)])).getV 0).toNat = 65535 ∧
    (atI 0xFFFF#16 (withV [(0, 1)])).i.toNat + ((atI 0xFFFF#16 (withV [(0, 1)])).getV 0).toNat = 65536 := by decide

/-- The first and the last place for three digits, on both sides of the reserved region. -/
theorem witness_BcdStoresDigits :
    (∀ k, k < 3 → Writable canonical (80 + k)) ∧ (∀ k, k < 3 → Writable canonical (0xE9D + k)) ∧ (∀ k, k < 3 → Writable canonical (0xF00 + k)) ∧
    (∀ k, k < 3 → Writable canonical (0xFFD + k)) := by decide

theorem witness_StoreRegisterBlock :
    (∀ k, k ≤ (15#4).toNat → Writable canonical (0xFF0 + k)) ∧ (∀ k, k ≤ (0#4).toNat → Writable canonical (0xFFF + k)) ∧
    (∀ k, k ≤ (15#4).toNat → Writable canonical (0xE90 + k)) := by decide

theorem witness_LoadRegisterBlock :
    (∀ k, k ≤ (15#4).toNat → Readable canonical (0 + k)) ∧ (∀ k, k ≤ (0#4).toNat → Readable canonical (0xFFF + k)) := by decide

/-- A first address that is forbidden, and a later one, for each of the four instructions. -/
theorem witness_BlockAccessIsAllOrNothing :
    ((∀ j, j < 2 → Writable canonical (0xE9E + j)) ∧ ¬Writable canonical (0xE9E + 2) ∧ 2 < 3) ∧ (¬Writable canonical (79 + 0) ∧ 0 < 3) ∧
    ((∀ j, j < 15 → Writable canonical (0xFF1 + j)) ∧ ¬Writable canonical (0xFF1 + 15) ∧ 15 ≤ (15#4).toNat) ∧
    ((∀ j, j < 1 → Readable canonical (0xE9F + j)) ∧ ¬Readable canonical (0xE9F + 1) ∧ 1 ≤ (1#4).toNat) ∧
    ((∀ j, j < 14 → Readable canonical (0xFF2 + j)) ∧ ¬Readable canonical (0xFF2 + 14) ∧ 14 < (15#4).toNat) := by decide

theorem witness_ClearScreen : canonical.Legal ∧ smallest.Legal ∧ largest.Legal ∧ smallest.memSize - 256 ≤ 609 ∧ 864 < smallest.memSize ∧
    608 < smallest.memSize - 256 := by decide

/-- Fifteen rows at the end of memory, and no row at all in the reserved region. -/
theorem witness_DrawFlipsCoveredPixels :
    canonical.Legal ∧ (∀ k, k < (15#4).toNat → Readable canonical (0xFF1 + k)) ∧ (∀ k, k < (0#4).toNat → Readable canonical (0xEA0 + k)) := by decide

/-- A glyph of the font, drawn twice. -/
theorem witness_DrawTwiceRestoresScreen :
    State.reset.cfg.Legal ∧ (0#4 : RegId) ≠ 15#4 ∧ (14#4 : RegId) ≠ 15#4 ∧
    (∀ k, k < (5#4).toNat → Readable State.reset.cfg (State.reset.i.toNat + k) ∧ State.reset.i.toNat + k < State.reset.cfg.memSize - 256) ∧
    ∃ t u, exec (.drw 0#4 14#4 5#4) State.reset = .next t ∧ exec (.drw 0#4 14#4 5#4) t = .next u :=
  ⟨by decide, by decide, by decide, by decide, _, _, rfl, rfl⟩

theorem witness_SnapshotShowsFramebuffer : (0 < 64 ∧ 0 < 32) ∧ 63 < 64 ∧ 31 < 32 := by decide

theorem keyDown_of_call (down : List Nat) (rand : Byte) (s : State) {k : Nat} (h : k < 16) (hk : down.contains k = true) :
    (calledWith down rand s).keyDown k :=
  ⟨_, _, _, rfl, rfl, h, by simpa using hk⟩

theorem witness_KeySkips :
    (calledWith [7, 15] 0#8 (withV [(2, 15)])).keyDown ((calledWith [7, 15] 0#8 (withV [(2, 15)])).getV 2).toNat ∧
    ¬(calledWith [7, 15] 0#8 (withV [(2, 0x17)])).keyDown ((calledWith [7, 15] 0#8 (withV [(2, 0x17)])).getV 2).toNat ∧ ¬State.reset.keyDown 0 := by
  refine ⟨keyDown_of_call _ _ _ (by decide) (by decide), ?_, ?_⟩
  · rintro ⟨_, _, _, _, _, h, _⟩
    exact absurd h (by decide)
  · rintro ⟨_, _, _, h, _⟩
    exact absurd h nofun

theorem witness_KeyWait :
    (calledWith [0] 0#8 State.reset).keyDown 0 ∧ ((calledWith [15] 0#8 State.reset).keyDown 15 ∧ ∀ j, j < 15 → ¬(calledWith [15] 0#8 State.reset).keyDown j) ∧
    ∀ k : Nat, ¬State.reset.keyDown k := by
  refine ⟨keyDown_of_call _ _ _ (by decide) (by decide), ⟨keyDown_of_call _ _ _ (by decide) (by decide), ?_⟩, ?_⟩
  · rintro j hj ⟨c, l, m, h, hc, h16, hm⟩
    cases h
    cases hc
    simp at hm
    omega
  · rintro k ⟨_, _, _, h, _⟩
    exact absurd h nofun

theorem witness_DrawFlagReadThenClear : ∃ s t, s.drawFlag = true ∧ step s = .next t := ⟨{ State.reset with drawFlag := true }, _, rfl, rfl⟩

/-- The first step of this run is the one that ends it. -/
theorem witness_RunStopsAtFirstTerminalResult :
    ∃ t, runToCompletion 1 (State.reset.withFetchWord 16 0x00EE) = some t ∧ t.status = .halted := ⟨_, rfl, by decide⟩

end Sys2Proof.Tests
end

section
/-! PROOFS. Construction (10_state.md section 13): when `construct` answers a VM and which, what that VM's memory reads as, and the
statement about its registers and its entry. -/

namespace Sys2Proof.Machine

/-- Everything an accepted construction says: the size is legal, the ROM fits below RESERVED, and the VM is the blank one with the ROM at 512. -/
theorem construct_ok_iff {c : Config} {rom : List Byte} {s : State} :
    construct c rom = .ok s ↔ c.Legal ∧ rom.length ≤ c.memSize - 864 ∧ s = (State.blank c).setBytes 512 rom := by
  unfold construct
  rw [Config.maxRomLen_eq]
  split_ifs with hsmall hlarge hrom
  · exact ⟨nofun, fun ⟨hc, _, _⟩ => absurd hsmall (by omega)⟩
  · exact ⟨nofun, fun ⟨hc, _, _⟩ => absurd hlarge (by omega)⟩
  · exact ⟨nofun, fun ⟨_, hfits, _⟩ => absurd hrom (by omega)⟩
  · constructor
    · rintro ⟨⟩
      exact ⟨⟨by omega, by omega⟩, by omega, rfl⟩
    · rintro ⟨_, _, rfl⟩
      rfl

@[simp] theorem State.blank_byteAt (c : Config) (a : Nat) : (State.blank c).byteAt a = unlistedByte c.font a := rfl

/-- A fetch that no check stops gives the two bytes at `pc`, the first as the high byte (20_memory.md R45, R46). -/
theorem State.fetch_of_readable {s : State} (h : Readable s.cfg s.pc.toNat) (h' : Readable s.cfg (s.pc.toNat + 1))
    (heven : s.pc.toNat % 2 = 0) : s.fetch = .ok (joinBytes (s.byteAt s.pc.toNat) (s.byteAt (s.pc.toNat + 1))) := by
  rw [State.fetch, fetchFault_none.mpr ⟨h, h', heven⟩]

section Constructed

variable {c : Config} {rom : List Byte} {s : State} (h : construct c rom = .ok s)
include h

theorem construct_cfg : s.cfg = c := by
  obtain ⟨-, -, rfl⟩ := construct_ok_iff.mp h
  exact State.setBytes_cfg ..

theorem construct_getV (z : RegId) : s.getV z = 0#8 := by
  obtain ⟨-, -, rfl⟩ := construct_ok_iff.mp h
  simp [State.getV, State.blank, State.reset]

theorem construct_i : s.i = 0#16 := by
  obtain ⟨-, -, rfl⟩ := construct_ok_iff.mp h
  exact State.setBytes_i ..

theorem construct_pc : s.pc = 512#16 := by
  obtain ⟨-, -, rfl⟩ := construct_ok_iff.mp h
  exact State.setBytes_pc ..

theorem construct_sp : s.sp = 0 := by
  obtain ⟨-, -, rfl⟩ := construct_ok_iff.mp h
  exact State.setBytes_sp ..

theorem construct_delay : s.delay = 60#8 := by
  obtain ⟨-, -, rfl⟩ := construct_ok_iff.mp h
  exact State.setBytes_delay ..

theorem construct_sound : s.sound = 60#8 := by
  obtain ⟨-, -, rfl⟩ := construct_ok_iff.mp h
  exact State.setBytes_sound ..

/-- The ROM stands at 512, byte after byte (R24). -/
theorem construct_byteAt_rom {k : Nat} (hk : k < rom.length) : s.byteAt (512 + k) = rom[k] := by
  obtain ⟨-, -, rfl⟩ := construct_ok_iff.mp h
  rw [State.setBytes_byteAt, dif_pos (by omega)]
  simp

/-- Outside the ROM's place memory is the font and zeros (R24). -/
theorem construct_byteAt_of_not_rom {a : Nat} (ha : a < 512 ∨ 512 + rom.length ≤ a) : s.byteAt a = unlistedByte c.font a := by
  obtain ⟨-, -, rfl⟩ := construct_ok_iff.mp h
  rw [State.setBytes_byteAt, dif_neg (by omega), State.blank_byteAt]

/-- The ROM ends below DISPLAY, so every pixel is off (R22). -/
theorem construct_isPixelSet {col row : Nat} (hcol : col < 64) (hrow : row < 32) : s.isPixelSet col row = false := by
  obtain ⟨hlegal, hrom, -⟩ := construct_ok_iff.mp h
  have hdisplay := (pixelAddr_range c hcol hrow).1
  rw [Config.displayStart_eq] at hdisplay
  have hzero : s.byteAt (pixelAddr c col row) = 0#8 := by
    rw [construct_byteAt_of_not_rom h (by omega), unlistedByte_of_ge _ (by omega)]
  rw [State.isPixelSet, State.pixelGet, construct_cfg h, hzero, BitVec.getLsbD_zero]

/-- The first instruction fetched is the one at ROM offset 0 (R22): its two bytes lie in the program region, below RESERVED. -/
theorem construct_fetch (hlen : 1 < rom.length) : s.fetch = .ok (joinBytes rom[0] rom[1]) := by
  obtain ⟨hlegal, hrom, -⟩ := construct_ok_iff.mp h
  have hpc : s.pc.toNat = 512 := by rw [construct_pc h]; rfl
  have hhigh : s.byteAt 512 = rom[0] := construct_byteAt_rom h (k := 0) (by omega)
  have hlow : s.byteAt (512 + 1) = rom[1] := construct_byteAt_rom h hlen
  have hreadable : ∀ a, a ≤ 513 → Readable s.cfg a := fun a ha => by
    rw [construct_cfg h]
    exact ⟨by omega, by omega⟩
  rw [State.fetch_of_readable (hreadable _ (by omega)) (hreadable _ (by omega)) (by omega), hpc, hhigh, hlow]

end Constructed

/-- Settles O1: loading the ROM writes memory only, between 512 and RESERVED, so the registers are the blank VM's, the screen is off, and
the two bytes at `pc` are the ROM's first. -/
theorem constructedRegistersAndEntry : Obligations.ConstructedRegistersAndEntry := by
  intro c rom s h
  rw [construct_i h, construct_pc h, construct_delay h, construct_sound h, construct_sp h]
  refine ⟨construct_getV h, rfl, rfl, rfl, rfl, rfl, fun _ _ => construct_isPixelSet h, ?_⟩
  rintro b₀ b₁ rest rfl
  exact construct_fetch h (by simp)

end Sys2Proof.Machine
end

section
/-! PROOFS. The decoder keeps every bit of its word (30_encoding.md R73, R74), so a word of no row decodes to the reserved no-op. -/

namespace Sys2Proof

/-! ### A word from its decoded fields -/

theorem encodeNNN_of_major {w : Word} {m : BitVec 4} (h : (opMajor w).toNat = m.toNat) : encodeNNN m (opNNN w) = w := by
  rw [← BitVec.eq_of_toNat_eq h, encodeNNN_fields]

theorem encodeXNN_of_major {w : Word} {m : BitVec 4} (h : (opMajor w).toNat = m.toNat) : encodeXNN m (opX w) (opNN w) = w := by
  rw [← BitVec.eq_of_toNat_eq h, encodeXNN_fields]

theorem encodeXNN_of_major_minor {w : Word} {m : BitVec 4} {nn : Byte} (h : (opMajor w).toNat = m.toNat)
    (h' : (opNN w).toNat = nn.toNat) : encodeXNN m (opX w) nn = w := by
  rw [← BitVec.eq_of_toNat_eq h', encodeXNN_of_major h]

theorem encodeXYN_of_major {w : Word} {m : BitVec 4} (h : (opMajor w).toNat = m.toNat) :
    encodeXYN m (opX w) (opY w) (opN w) = w := by
  rw [← BitVec.eq_of_toNat_eq h, encodeXYN_fields]

theorem encodeXYN_of_major_minor {w : Word} {m n : BitVec 4} (h : (opMajor w).toNat = m.toNat)
    (h' : (opN w).toNat = n.toNat) : encodeXYN m (opX w) (opY w) n = w := by
  rw [← BitVec.eq_of_toNat_eq h', encodeXYN_of_major h]

/-! ### Encoding what was decoded -/

theorem encode_decodeMajor0 (w : Word) : encode (decodeMajor0 w) = w := by
  unfold decodeMajor0
  split_ifs with hcls hret
  · exact hcls.symm
  · exact hret.symm
  · rfl

theorem encode_decodeIfMinor0 {w : Word} {i : Instr} (hi : (opN w).toNat = 0 → encode i = w) :
    encode (decodeIfMinor0 w i) = w := by
  unfold decodeIfMinor0
  split_ifs with h
  · exact hi (by rw [h]; rfl)
  · rfl

theorem encode_decodeMajor8 {w : Word} (hm : (opMajor w).toNat = 8) : encode (decodeMajor8 w) = w := by
  unfold decodeMajor8
  split
  case h_10 => rfl
  all_goals exact encodeXYN_of_major_minor hm ‹_›

theorem encode_decodeMajorE {w : Word} (hm : (opMajor w).toNat = 14) : encode (decodeMajorE w) = w := by
  unfold decodeMajorE
  split_ifs with hskp hsknp
  · exact encodeXNN_of_major_minor hm (by rw [hskp])
  · exact encodeXNN_of_major_minor hm (by rw [hsknp])
  · rfl

theorem encode_decodeMajorF {w : Word} (hm : (opMajor w).toNat = 15) : encode (decodeMajorF w) = w := by
  unfold decodeMajorF
  split
  case h_10 => rfl
  all_goals exact encodeXNN_of_major_minor hm ‹_›

/-- No bit of a word is lost in decoding: one case per major (R73). -/
theorem encode_decode (w : Word) : encode (decode w) = w := by
  unfold decode
  split
  next => exact encode_decodeMajor0 w
  next h => exact encodeNNN_of_major h
  next h => exact encodeNNN_of_major h
  next h => exact encodeXNN_of_major h
  next h => exact encodeXNN_of_major h
  next h => exact encode_decodeIfMinor0 fun h' => encodeXYN_of_major_minor h h'
  next h => exact encodeXNN_of_major h
  next h => exact encodeXNN_of_major h
  next h => exact encode_decodeMajor8 h
  next h => exact encode_decodeIfMinor0 fun h' => encodeXYN_of_major_minor h h'
  next h => exact encodeNNN_of_major h
  next h => exact encodeNNN_of_major h
  next h => exact encodeXNN_of_major h
  next h => exact encodeXYN_of_major h
  next h => exact encode_decodeMajorE h
  next =>
    have hlast : (opMajor w).toNat = 15 := by
      simp only [imp_false] at *
      omega
    exact encode_decodeMajorF hlast

/-! ### The row of a decoded word -/

namespace Laws.TableRow

/-- The encoded word of every instruction lies in its row, one case per format (30_encoding.md R70). -/
theorem encode_and_rowOf (i : Instr) : Statement i := by
  cases i with
  | cls | ret => rfl
  | jp | call | ldI | jpV0 => exact encodeNNN_and ..
  | seImm | sneImm | ldImm | addImm | rnd => exact encodeXNN_and ..
  | seReg | ldReg | orReg | andReg | xorReg | addReg | subReg | shr | subnReg | shl | sneReg => exact encodeXY_and ..
  | drw => exact encodeXYN_and ..
  | skp | sknp | ldVxDt | ldVxK | ldDtVx | ldStVx | addI | ldFont | ldBcd | storeRegs | loadRegs => exact encodeX_and ..
  | nopReserved => exact BitVec.and_zero

/-- Every instruction but the reserved no-op has one of the 34 rows. -/
theorem rowOf_mem_opcodePatterns {i : Instr} (h : ∀ w, i ≠ .nopReserved w) : rowOf i ∈ opcodePatterns := by
  cases i with
  | nopReserved w => exact absurd rfl (h w)
  | _ => simp [rowOf, opcodePatterns]

end Laws.TableRow

theorem isReservedWord_iff {w : Word} : isReservedWord w = true ↔ ∀ p ∈ opcodePatterns, w &&& p.1 ≠ p.2 := by
  simp only [isReservedWord, List.all_eq_true, bne_iff_ne]

/-- A word that decodes to the reserved no-op is the word that no-op carries. -/
theorem eq_of_decode_eq_nopReserved {w v : Word} (h : decode w = .nopReserved v) : v = w := by
  have hw := encode_decode w
  rwa [h] at hw

/-- A word of the reserved spaces decodes to the reserved no-op: any other instruction would put the word in its row. -/
theorem decode_of_isReservedWord {w : Word} (h : isReservedWord w = true) : decode w = .nopReserved w := by
  by_cases hnop : ∃ v, decode w = .nopReserved v
  · obtain ⟨v, hv⟩ := hnop
    rw [hv, eq_of_decode_eq_nopReserved hv]
  · have hmem := Laws.TableRow.rowOf_mem_opcodePatterns (not_exists.mp hnop)
    have hrow : encode (decode w) &&& (Laws.TableRow.rowOf (decode w)).1 = (Laws.TableRow.rowOf (decode w)).2 :=
      Laws.TableRow.encode_and_rowOf (decode w)
    rw [encode_decode] at hrow
    exact absurd hrow (isReservedWord_iff.mp h _ hmem)

end Sys2Proof
end

section
/-! PROOFS. The end of a step, and the step of a reserved word (40_step_cycle.md R95, R101). -/

namespace Sys2Proof.Machine

/-! ### The end of a step -/

/-- A step whose instruction answers a next state is that state and the end of the step. -/
theorem step_of_exec {s u : State} {op : Word} (hs : s.status = .running) (hf : s.fetch = .ok op)
    (hu : exec (decode op) s = .next u) : step s = .next u.finishStep := by
  rw [step_of_fetch hs hf, hu]

/-- Both timers go down by one, with floor 0, where a completed step ticks (R95). -/
theorem State.finishStep_timers_of_tick {s : State} (h : s.result = some .cont) (ht : s.cfg.tickOnStep = true) :
    s.finishStep.delay.toNat = s.delay.toNat - 1 ∧ s.finishStep.sound.toNat = s.sound.toNat - 1 := by
  rw [State.finishStep_of_cont h, if_pos ht]
  exact ⟨countDown_toNat _, countDown_toNat _⟩

/-- Both timers stay where the step does not tick (R95). -/
theorem State.finishStep_timers_of_not_tick {s : State} (h : s.cfg.tickOnStep = false ∨ s.result ≠ some .cont) :
    s.finishStep.delay = s.delay ∧ s.finishStep.sound = s.sound := by
  by_cases hr : s.result = some .cont
  · rw [State.finishStep_of_cont hr, if_neg (by simp [h.resolve_right (not_not_intro hr)])]
    exact ⟨rfl, rfl⟩
  · rw [State.finishStep_of_result hr]
    exact ⟨rfl, rfl⟩

/-- The end of a step adds the timers, and the call's arguments, to what its instruction may have changed. -/
theorem Frame.finishStep {c : Changes} {s u : State} (h : Frame c s u) :
    Frame { c with delay := true, sound := true } s { u.finishStep with inputs := s.inputs, freeIndex := s.freeIndex } where
  v hc z := by simpa [State.getV] using h.v hc z
  i hc := by simpa using h.i hc
  stack hc := by simpa using h.stack hc
  delay := nofun
  sound := nofun
  drawFlag hc := by simpa using h.drawFlag hc
  memory hc a := by simpa [State.byteAt] using h.memory hc a
  status hc := by simpa using h.status hc
  cfg := by simpa using h.cfg
  inputs := ⟨rfl, rfl⟩

/-! ### The reserved no-op -/

theorem exec_nopReserved (w : Word) (s : State) : exec (.nopReserved w) s = .next s.advance.complete := rfl

/-- An instruction with no effect of its own changes only `pc` and what the step reports. -/
theorem State.advance_complete_frame (s : State) : Frame {} s s.advance.complete :=
  .of_eq (.inr rfl) (.inr rfl) (.inr ⟨rfl, rfl⟩) (.inr rfl) (.inr rfl) (.inr rfl) (.inr rfl) (.inr rfl) rfl rfl rfl

/-- Settles O24: a reserved word decodes to the no-op, whose only effect is `pc + 2`, and the end of the step adds the tick. -/
theorem reservedWordIsNoOp : Obligations.ReservedWordIsNoOp := by
  refine ⟨fun w s => ⟨_, exec_nopReserved w s, rfl, rfl, s.advance_complete_frame⟩, fun s w hs hf hw => ?_⟩
  have hexec : exec (decode w) s = .next s.advance.complete := by
    rw [decode_of_isReservedWord hw, exec_nopReserved]
  exact ⟨_, step_of_exec hs hf hexec, by simp, by simp,
    State.finishStep_timers_of_tick (s := s.advance.complete) rfl,
    fun ht => State.finishStep_timers_of_not_tick (s := s.advance.complete) (.inl ht),
    s.advance_complete_frame.finishStep⟩

end Sys2Proof.Machine
end

section
/-! PROOFS. Jumps, the call and the register skips (41_flow_and_skips.md): what they put into `pc`, and that nothing else changes but the
stack of a call. -/

namespace Sys2Proof.Machine

/-! ### Targets -/

/-- A 12-bit address keeps its value in `pc` (30_encoding.md R72). -/
theorem addressOf_toNat (nnn : BitVec 12) : (addressOf nnn).toNat = nnn.toNat :=
  BitVec.toNat_setWidth_of_le (by decide)

/-- The sum of BNNN is at most 4095 + 255, so it does not wrap (41_flow_and_skips.md R117). -/
theorem indexedTarget_toNat (nnn : BitVec 12) (v0 : Byte) : (indexedTarget nnn v0).toNat = nnn.toNat + v0.toNat := by
  have hnnn := nnn.isLt
  have hv0 := v0.isLt
  rw [indexedTarget, BitVec.toNat_add, BitVec.toNat_setWidth_of_le (by decide), BitVec.toNat_setWidth_of_le (by decide)]
  exact Nat.mod_eq_of_lt (by omega)

/-- The next `pc` of a skip, the condition given as a proposition (40_step_cycle.md R100). -/
theorem State.skipIf_pc_toNat (s : State) {c : Bool} {p : Prop} [Decidable p] (hc : c = true ↔ p) :
    (s.skipIf c).pc.toNat = (s.pc.toNat + if p then 4 else 2) % 65536 := by
  rw [State.skipIf_pc]
  by_cases hp : p
  · rw [if_pos (hc.mpr hp), if_pos hp, BitVec.toNat_add]
    rfl
  · rw [if_neg (mt hc.mp hp), if_neg hp, BitVec.toNat_add]
    rfl

/-! ### What a jump, a call and a skip leave unchanged -/

/-- An instruction that only sets `pc` changes only `pc` and what the step reports. -/
theorem State.setPc_complete_frame (s : State) (a : Word) : Frame {} s (s.setPc a).complete :=
  .of_eq (.inr rfl) (.inr rfl) (.inr ⟨rfl, rfl⟩) (.inr rfl) (.inr rfl) (.inr rfl) (.inr rfl) (.inr rfl) rfl rfl rfl

/-- A call below depth 12 may change the stack besides `pc`, and nothing else. -/
theorem State.call_frame (s : State) (st : Vector Word 12) (n : Fin 13) (a : Word) :
    Frame { stack := true } s ({ s with stack := st, sp := n }.setPc a).complete :=
  .of_eq (.inr rfl) (.inr rfl) (.inl rfl) (.inr rfl) (.inr rfl) (.inr rfl) (.inr rfl) (.inr rfl) rfl rfl rfl

/-- Every instruction that ends in a skip completes with the skip's `pc` and nothing else changed. -/
theorem exec_skip {i : Instr} {s : State} {c : Bool} {p : Prop} [Decidable p]
    (hexec : exec i s = .next (s.skipIf c).complete) (hc : c = true ↔ p) :
    ∃ t, exec i s = .next t ∧ t.result = some .cont ∧ Frame {} s t ∧
      t.pc.toNat = (s.pc.toNat + if p then 4 else 2) % 65536 :=
  ⟨_, hexec, rfl, s.setPc_complete_frame _, s.skipIf_pc_toNat hc⟩

/-! ### The statements -/

theorem exec_jp (nnn : BitVec 12) (s : State) : exec (.jp nnn) s = .next (s.setPc (addressOf nnn)).complete := rfl

theorem exec_jpV0 (nnn : BitVec 12) (s : State) :
    exec (.jpV0 nnn) s = .next (s.setPc (indexedTarget nnn (s.getV 0#4))).complete := rfl

/-- Settles O29: 1NNN sets `pc` to its zero-extended address. -/
theorem jumpSetsPc : Obligations.JumpSetsPc := fun nnn s =>
  ⟨_, exec_jp nnn s, rfl, addressOf_toNat nnn, s.setPc_complete_frame _⟩

/-- Settles O30: BNNN sets `pc` to a sum that fits 16 bits. -/
theorem indexedJumpAddsV0 : Obligations.IndexedJumpAddsV0 := fun nnn s =>
  ⟨_, exec_jpV0 nnn s, rfl, indexedTarget_toNat nnn (s.getV 0#4), s.setPc_complete_frame _⟩

/-- Settles O31, by the two ends of 2NNN: the push below depth 12, the overflow at depth 12. -/
theorem callPushesAndJumps : Obligations.CallPushesAndJumps := by
  intro nnn s
  rcases execCall_cases nnn s with ⟨hfull, hexec⟩ | ⟨hroom, hexec⟩
  · exact ⟨fun hlt => absurd hfull hlt.ne, fun _ => hexec⟩
  · exact ⟨fun _ => ⟨_, hexec, rfl, addressOf_toNat nnn, rfl, stack_set_getElem s.stack s.sp.val hroom (s.pc + 2#16),
      s.call_frame _ _ _⟩,
      fun hfull => absurd hfull hroom.ne⟩

/-- Settles O34: each register skip is a skip on the comparison its rule names. -/
theorem registerSkips : Obligations.RegisterSkips := fun _ _ _ _ =>
  ⟨exec_skip rfl beq_iff_eq, exec_skip rfl bne_iff_ne, exec_skip rfl beq_iff_eq, exec_skip rfl bne_iff_ne⟩

end Sys2Proof.Machine
end

section
/-! PROOFS. Loads, the immediate sum and the bitwise operations (42_load_and_alu.md R130 to R135): one V register written, no flag. -/

namespace Sys2Proof.Machine

/-- An instruction that writes one V register may change the V registers besides `pc`, and nothing else. -/
theorem State.setV_advance_complete_frame (s : State) (x : RegId) (b : Byte) :
    Frame { v := true } s (s.setV x b).advance.complete :=
  .of_eq (.inl rfl) (.inr rfl) (.inr ⟨rfl, rfl⟩) (.inr rfl) (.inr rfl) (.inr rfl) (.inr rfl) (.inr rfl) rfl rfl rfl

/-- Every instruction whose effect is one register write completes with the value in V[X], the other registers kept, `pc + 2` and
nothing else changed. `P` is what the instruction's rule says of the value. -/
theorem exec_setV {i : Instr} {s : State} {x : RegId} {b : Byte} {P : Byte → Prop}
    (hexec : exec i s = .next (s.setV x b).advance.complete) (hb : P b) :
    ∃ t, exec i s = .next t ∧ t.result = some .cont ∧ t.pc = s.pc + 2#16 ∧ Frame { v := true } s t ∧
      P (t.getV x) ∧ ∀ z, z ≠ x → t.getV z = s.getV z := by
  refine ⟨_, hexec, rfl, rfl, s.setV_advance_complete_frame x b, ?_, fun z hz => ?_⟩
  · simpa using hb
  · simp [hz]

/-- Settles O35: both forms write one register; the sum of two bytes is the sum modulo 256. -/
theorem immediateForms : Obligations.ImmediateForms := fun x nn s =>
  ⟨exec_setV (P := (· = nn)) rfl rfl,
    exec_setV (P := fun b => b.toNat = ((s.getV x).toNat + nn.toNat) % 256) rfl (BitVec.toNat_add ..)⟩

/-- Settles O36: each form writes one register, with the copy or with the byte whose bits the operation gives. -/
theorem copyAndLogic : Obligations.CopyAndLogic := fun x y s =>
  ⟨exec_setV (P := (· = s.getV y)) rfl rfl,
    exec_setV (P := fun b => ∀ k, b.getLsbD k = ((s.getV x).getLsbD k || (s.getV y).getLsbD k)) rfl fun _ => BitVec.getLsbD_or,
    exec_setV (P := fun b => ∀ k, b.getLsbD k = ((s.getV x).getLsbD k && (s.getV y).getLsbD k)) rfl fun _ => BitVec.getLsbD_and,
    exec_setV (P := fun b => ∀ k, b.getLsbD k = ((s.getV x).getLsbD k ^^ (s.getV y).getLsbD k)) rfl fun _ => BitVec.getLsbD_xor⟩

end Sys2Proof.Machine
end

section
/-! PROOFS. The load of the address register (43_index_and_memory.md R150): I written, nothing else. -/

namespace Sys2Proof.Machine

/-- An instruction that writes the address register may change I besides `pc`, and nothing else. -/
theorem State.setI_advance_complete_frame (s : State) (a : Word) :
    Frame { i := true } s (s.setI a).advance.complete :=
  .of_eq (.inr rfl) (.inl rfl) (.inr ⟨rfl, rfl⟩) (.inr rfl) (.inr rfl) (.inr rfl) (.inr rfl) (.inr rfl) rfl rfl rfl

theorem exec_ldI (nnn : BitVec 12) (s : State) :
    exec (.ldI nnn) s = .next (s.setI (addressOf nnn)).advance.complete := rfl

/-- Settles O41: ANNN writes its zero-extended address to I, and `pc + 2` is all that changes besides. -/
theorem loadAddressRegister : Obligations.LoadAddressRegister := fun nnn s =>
  ⟨_, exec_ldI nnn s, rfl, rfl, addressOf_toNat nnn, s.setI_advance_complete_frame _⟩

end Sys2Proof.Machine
end

section
/-! PROOFS. The clear of the screen (44_display.md R170): every framebuffer byte back to its unlisted value, which is 0 above the font. -/

namespace Sys2Proof

theorem Config.inDisplay_iff (c : Config) (a : Nat) : c.inDisplay a = true ↔ c.memSize - 256 ≤ a ∧ a < c.memSize := by
  rw [Config.inDisplay, Config.displayStart_eq, decide_eq_true_iff]

end Sys2Proof

namespace Sys2Proof.Machine

theorem exec_cls (s : State) : exec .cls s = .next (s.clearDisplay.setDrawFlag true).advance.complete := rfl

/-- Clearing writes 0 to all of DISPLAY: at a legal size the framebuffer begins above the font, the only unlisted bytes that are not 0. -/
theorem State.clearDisplay_byteAt_inDisplay {s : State} (hlegal : s.cfg.Legal) {a : Nat} (hlo : s.cfg.memSize - 256 ≤ a)
    (hhi : a < s.cfg.memSize) : s.clearDisplay.byteAt a = 0#8 := by
  obtain ⟨hmin, -⟩ := hlegal
  rw [State.clearDisplay_byteAt, if_pos ((s.cfg.inDisplay_iff a).mpr ⟨hlo, hhi⟩), unlistedByte_of_ge _ (by omega)]

theorem State.clearDisplay_byteAt_below (s : State) {a : Nat} (h : a < s.cfg.memSize - 256) :
    s.clearDisplay.byteAt a = s.byteAt a := by
  rw [State.clearDisplay_byteAt, if_neg fun hin => absurd ((s.cfg.inDisplay_iff a).mp hin).1 (Nat.not_le.mpr h)]

/-- A pixel of the screen is one bit of a framebuffer byte, so it is off after clearing (R49, R170). -/
theorem State.clearDisplay_isPixelSet {s : State} (hlegal : s.cfg.Legal) {col row : Nat} (hcol : col < 64) (hrow : row < 32) :
    s.clearDisplay.isPixelSet col row = false := by
  obtain ⟨hlo, hhi⟩ := pixelAddr_range s.cfg hcol hrow
  rw [Config.displayStart_eq] at hlo hhi
  have hzero := State.clearDisplay_byteAt_inDisplay hlegal hlo (by have := hlegal.1; omega)
  rw [State.isPixelSet, State.pixelGet, State.clearDisplay_cfg, hzero, BitVec.getLsbD_zero]

/-- Clearing the screen may change memory and the draw flag besides `pc`, and nothing else. -/
theorem State.cls_frame (s : State) :
    Frame { memory := true, drawFlag := true } s (s.clearDisplay.setDrawFlag true).advance.complete :=
  .of_eq (.inr rfl) (.inr rfl) (.inr ⟨rfl, rfl⟩) (.inr rfl) (.inr rfl) (.inl rfl) (.inl rfl) (.inr rfl) rfl rfl rfl

/-- Settles O49: after `clearDisplay` only the draw flag, `pc` and the result are written, so the bytes and pixels are those it leaves. -/
theorem clearScreen : Obligations.ClearScreen := fun s hlegal =>
  ⟨_, exec_cls s, rfl, rfl, rfl, fun _ => State.clearDisplay_byteAt_inDisplay hlegal,
    fun _ _ => State.clearDisplay_isPixelSet hlegal, fun _ => s.clearDisplay_byteAt_below, s.cls_frame⟩

end Sys2Proof.Machine
end

section
/-! PROOFS. The timer moves (45_timers_and_keys.md R190 to R192): one register or one timer written, before the tick of the step. -/

namespace Sys2Proof.Machine

/-- An instruction that writes the delay timer may change it besides `pc`, and nothing else. -/
theorem State.setDelay_advance_complete_frame (s : State) (b : Byte) :
    Frame { delay := true } s (s.setDelay b).advance.complete :=
  .of_eq (.inr rfl) (.inr rfl) (.inr ⟨rfl, rfl⟩) (.inl rfl) (.inr rfl) (.inr rfl) (.inr rfl) (.inr rfl) rfl rfl rfl

/-- An instruction that writes the sound timer may change it besides `pc`, and nothing else. -/
theorem State.setSound_advance_complete_frame (s : State) (b : Byte) :
    Frame { sound := true } s (s.setSound b).advance.complete :=
  .of_eq (.inr rfl) (.inr rfl) (.inr ⟨rfl, rfl⟩) (.inr rfl) (.inl rfl) (.inr rfl) (.inr rfl) (.inr rfl) rfl rfl rfl

theorem exec_ldVxDt (x : RegId) (s : State) :
    exec (.ldVxDt x) s = .next (s.setV x s.delay).advance.complete := rfl

theorem exec_ldDtVx (x : RegId) (s : State) :
    exec (.ldDtVx x) s = .next (s.setDelay (s.getV x)).advance.complete := rfl

theorem exec_ldStVx (x : RegId) (s : State) :
    exec (.ldStVx x) s = .next (s.setSound (s.getV x)).advance.complete := rfl

/-- Settles O53: FX07 is a register write with the value of `delay`; FX15 and FX18 write one timer with V[X]. -/
theorem timerInstructions : Obligations.TimerInstructions := by
  intro x s
  refine ⟨?_, ⟨_, exec_ldDtVx x s, rfl, rfl, rfl, s.setDelay_advance_complete_frame _⟩,
    ⟨_, exec_ldStVx x s, rfl, rfl, rfl, s.setSound_advance_complete_frame _⟩⟩
  obtain ⟨t, hexec, hresult, hpc, hframe, hval, hkept⟩ := exec_setV (P := (· = s.delay)) (exec_ldVxDt x s) rfl
  exact ⟨t, hexec, hresult, hpc, hval, hkept, hframe⟩

end Sys2Proof.Machine
end

section
/-! PROOFS. The reason OutOfBounds (60_exceptions.md R214): a checked access fails with the reason its check gives, and the bound is the
first thing each check looks at. -/

namespace Sys2Proof.Machine

/-! ### An access fails with the reason of its check -/

theorem State.fetch_eq_error_iff {s : State} {r : FaultReason} : s.fetch = .error r ↔ fetchFault s.cfg s.pc.toNat = some r := by
  rcases s.fetch_cases with ⟨hfault, hfetch⟩ | ⟨r', hfault, hfetch⟩ <;> simp [hfault, hfetch]

theorem State.memRead_eq_error_iff {s : State} {a : Nat} {r : FaultReason} :
    s.memRead a = .error r ↔ ¬Readable s.cfg a ∧ readReason s.cfg a = r := by
  rw [State.memRead_eq]
  by_cases h : Readable s.cfg a
  · rw [if_pos h]
    exact ⟨nofun, fun hbad => absurd h hbad.1⟩
  · rw [if_neg h, Except.error.injEq]
    exact (and_iff_right h).symm

theorem State.memWrite_eq_error_iff {s : State} {a : Nat} {b : Byte} {r : FaultReason} :
    s.memWrite a b = .error r ↔ ¬Writable s.cfg a ∧ writeReason s.cfg a = r := by
  rw [State.memWrite_eq]
  by_cases h : Writable s.cfg a
  · rw [if_pos h]
    exact ⟨nofun, fun hbad => absurd h hbad.1⟩
  · rw [if_neg h, Except.error.injEq]
    exact (and_iff_right h).symm

/-! ### The check that gives OutOfBounds comes first (20_memory.md R43 to R45) -/

theorem fetchFault_eq_outOfBounds_iff {c : Config} {pc : Nat} : fetchFault c pc = some .outOfBounds ↔ c.memSize ≤ pc + 1 := by
  unfold fetchFault
  split_ifs with hpast <;> simp [hpast]

theorem readReason_eq_outOfBounds_iff {c : Config} {a : Nat} : readReason c a = .outOfBounds ↔ c.memSize ≤ a := by
  unfold readReason
  split_ifs with hpast <;> simp [hpast]

theorem writeReason_eq_outOfBounds_iff {c : Config} {a : Nat} : writeReason c a = .outOfBounds ↔ c.memSize ≤ a := by
  unfold writeReason
  split_ifs with hpast <;> simp [hpast]

theorem not_readable_of_past {c : Config} {a : Nat} (h : c.memSize ≤ a) : ¬Readable c a :=
  fun hr => absurd hr.1 (Nat.not_lt.mpr h)

/-- Settles O48: an access fails with its check's reason, which is OutOfBounds exactly past the memory, where no address is readable or
writable. -/
theorem outOfBoundsExactlyPastMemory : Obligations.OutOfBoundsExactlyPastMemory := by
  intro s a b
  refine ⟨?_, ?_, ?_⟩
  · rw [State.fetch_eq_error_iff, fetchFault_eq_outOfBounds_iff]
  · rw [State.memRead_eq_error_iff, readReason_eq_outOfBounds_iff]
    exact and_iff_right_of_imp not_readable_of_past
  · rw [State.memWrite_eq_error_iff, writeReason_eq_outOfBounds_iff]
    exact and_iff_right_of_imp fun hpast hw => not_readable_of_past hpast hw.1

end Sys2Proof.Machine
end

section
/-! PROOFS. The snapshot of the framebuffer (60_exceptions.md R230): entry for entry it is the pixels of the screen. -/

namespace Sys2Proof.Machine

/-- `PixelGet` with the memory map in numbers (20_memory.md R49, R50). -/
theorem State.pixelGet_eq (s : State) (col row : Nat) :
    s.pixelGet col row = (s.byteAt (s.cfg.memSize - 256 + row * 8 + col / 8)).getLsbD (7 - col % 8) := by
  rw [← Config.displayStart_eq]
  rfl

theorem State.framebufferSnapshot_entry (s : State) {col row : Nat} (hcol : col < 64) (hrow : row < 32) :
    (s.framebufferSnapshot[row]?.bind fun l => l[col]?) = some (s.pixelGet col row) := by
  have hwidth : col < displayWidth := hcol
  have hheight : row < displayHeight := hrow
  simp [State.framebufferSnapshot, hwidth, hheight]

/-- Settles O52: the entry is `PixelGet`, which reads that bit of that byte. -/
theorem snapshotShowsFramebuffer : Obligations.SnapshotShowsFramebuffer := fun s col row hcol hrow => by
  rw [s.framebufferSnapshot_entry hcol hrow, State.pixelGet_eq]

end Sys2Proof.Machine
end

section
/-! PROOFS. The draw flag (60_exceptions.md R233): `draw_flag_and_clear` clears it, and no instruction, step or tick does. -/

namespace Sys2Proof.Machine

/-- The read-and-clear may change the draw flag, and nothing else. -/
theorem State.drawFlagAndClear_frame (s : State) : Frame { drawFlag := true } s s.drawFlagAndClear.2 :=
  .of_eq (.inr rfl) (.inr rfl) (.inr ⟨rfl, rfl⟩) (.inr rfl) (.inr rfl) (.inl rfl) (.inr rfl) (.inr rfl) rfl rfl rfl

/-- The store of a block sets the draw flag or keeps it, also where it faults. -/
theorem State.storeBlock_drawFlag_of_set {s : State} (hflag : s.drawFlag = true) (bs : List Byte) :
    (s.completeOr (s.advance.writeBlock s.base bs)).drawFlag = true := by
  rcases s.storeBlock_cases bs with ⟨-, hend⟩ | ⟨r, hend, -⟩ <;> rw [hend]
  · simp [hflag]
  · exact hflag

/-- No instruction clears the draw flag: 00E0 and DXYN set it, a store sets or keeps it, and the others do not write it. -/
theorem exec_drawFlag_of_set {i : Instr} {s t : State} (hflag : s.drawFlag = true) (h : exec i s = .next t) : t.drawFlag = true := by
  cases i
  case cls =>
    cases h
    rfl
  case drw x y n =>
    rcases execDrw_cases x y n s with ⟨-, hend⟩ | ⟨r, hend, -⟩ <;> cases hend.symm.trans h
    · rfl
    · exact hflag
  case ldBcd x =>
    cases h
    exact State.storeBlock_drawFlag_of_set hflag _
  case storeRegs x =>
    cases h
    exact State.storeBlock_drawFlag_of_set hflag _
  case loadRegs x =>
    rcases execLoadRegs_cases x s with ⟨-, hend⟩ | ⟨r, hend, -⟩ <;> cases hend.symm.trans h <;> exact hflag
  case ret =>
    rcases execRet_cases s with ⟨_, hend⟩ | ⟨_, hend⟩ <;> cases hend.symm.trans h <;> exact hflag
  case call nnn =>
    rcases execCall_cases nnn s with ⟨_, hend⟩ | ⟨_, hend⟩ <;> cases hend.symm.trans h <;> exact hflag
  case addI x =>
    rcases execAddI_cases x s with ⟨-, hend⟩ | ⟨-, hend⟩ <;> cases hend.symm.trans h <;> exact hflag
  case ldVxK x =>
    rcases execLdVxK_cases x s with ⟨-, hend⟩ | ⟨k, -, hend⟩ <;> cases hend.symm.trans h <;> exact hflag
  all_goals
    cases h
    exact hflag

/-- No step clears the draw flag: besides its instruction a step writes the status, the result, the timers and the inputs. -/
theorem step_drawFlag_of_set {s t : State} (hflag : s.drawFlag = true) (h : step s = .next t) : t.drawFlag = true := by
  rcases step_cases h with ⟨-, rfl⟩ | ⟨r, -, rfl⟩ | ⟨-, r, -, rfl⟩ | ⟨-, op, u, -, hexec, rfl⟩ <;> rw [State.finishStep_drawFlag]
  · exact hflag
  · exact hflag
  · exact hflag
  · exact exec_drawFlag_of_set hflag hexec

/-- Settles O56: the operation is a read and one write of the flag; over a step and a tick a set flag stays set. -/
theorem drawFlagReadThenClear : Obligations.DrawFlagReadThenClear := fun s =>
  ⟨rfl, rfl, s.drawFlagAndClear_frame, fun _ => step_drawFlag_of_set, fun hflag => hflag⟩

end Sys2Proof.Machine
end

section
/-! PROOFS. Decoding and encoding are inverse (30_encoding.md R73, R74), and the reserved words are those of no row of the table (R75). -/

namespace Sys2Proof

/-! ### Decoding what was encoded -/

@[simp] theorem opMajor_encodeNNN (m : BitVec 4) (nnn : BitVec 12) : opMajor (encodeNNN m nnn) = m := (fields_encodeNNN m nnn).1
@[simp] theorem opNNN_encodeNNN (m : BitVec 4) (nnn : BitVec 12) : opNNN (encodeNNN m nnn) = nnn := (fields_encodeNNN m nnn).2

@[simp] theorem opMajor_encodeXNN (m : BitVec 4) (x : RegId) (nn : Byte) : opMajor (encodeXNN m x nn) = m := (fields_encodeXNN m x nn).1
@[simp] theorem opX_encodeXNN (m : BitVec 4) (x : RegId) (nn : Byte) : opX (encodeXNN m x nn) = x := (fields_encodeXNN m x nn).2.1
@[simp] theorem opNN_encodeXNN (m : BitVec 4) (x : RegId) (nn : Byte) : opNN (encodeXNN m x nn) = nn := (fields_encodeXNN m x nn).2.2

@[simp] theorem opMajor_encodeXYN (m : BitVec 4) (x y : RegId) (n : BitVec 4) : opMajor (encodeXYN m x y n) = m :=
  (fields_encodeXYN m x y n).1
@[simp] theorem opX_encodeXYN (m : BitVec 4) (x y : RegId) (n : BitVec 4) : opX (encodeXYN m x y n) = x := (fields_encodeXYN m x y n).2.1
@[simp] theorem opY_encodeXYN (m : BitVec 4) (x y : RegId) (n : BitVec 4) : opY (encodeXYN m x y n) = y := (fields_encodeXYN m x y n).2.2.1
@[simp] theorem opN_encodeXYN (m : BitVec 4) (x y : RegId) (n : BitVec 4) : opN (encodeXYN m x y n) = n := (fields_encodeXYN m x y n).2.2.2

/-- The fields of an encoded word select the instruction's own branch of the decoder, one case per format (R70). -/
theorem decode_encode {i : Instr} (h : i.wellFormed = true) : decode (encode i) = i := by
  cases i with
  | cls | ret => rfl
  | jp | call | ldI | jpV0 => simp [encode, decode]
  | seImm | sneImm | ldImm | addImm | rnd => simp [encode, decode]
  | seReg | sneReg => simp [encode, decode, decodeIfMinor0]
  | ldReg | orReg | andReg | xorReg | addReg | subReg | shr | subnReg | shl => simp [encode, decode, decodeMajor8]
  | drw => simp [encode, decode]
  | skp | sknp => simp [encode, decode, decodeMajorE]
  | ldVxDt | ldVxK | ldDtVx | ldStVx | addI | ldFont | ldBcd | storeRegs | loadRegs => simp [encode, decode, decodeMajorF]
  | nopReserved w => exact decode_of_isReservedWord h

/-- The bytes of a word, joined again, are the word; what follows them is left over (20_memory.md R46). -/
theorem decodeBytes_encodeBytes (i : Instr) (rest : List Byte) :
    decodeBytes (encodeBytes i ++ rest) = .ok (decode (encode i), rest) :=
  congrArg (fun w => Except.ok (decode w, rest)) (joinBytes_bytes (encode i))

/-- Settles O25, by the format of the instruction. -/
theorem decodeInvertsEncode : Obligations.DecodeInvertsEncode := fun i h =>
  ⟨decode_encode h, fun rest => by rw [decodeBytes_encodeBytes, decode_encode h]⟩

/-! ### The fixed bits of a word in a row -/

/-- A part of a word in a row has the row's digits wherever the mask has ones. -/
theorem extractLsb'_of_row {w : Word} {p : Word × Word} (h : w &&& p.1 = p.2) (start len : Nat)
    (hmask : p.1.extractLsb' start len = BitVec.allOnes len) : w.extractLsb' start len = p.2.extractLsb' start len := by
  rw [← h, BitVec.extractLsb'_and, hmask, BitVec.and_allOnes]

/-- The major of a word in a row is the row's: every mask covers it. -/
theorem opMajor_of_row {w : Word} {p : Word × Word} (hp : p ∈ opcodePatterns) (h : w &&& p.1 = p.2) : opMajor w = opMajor p.2 := by
  have hmask : ∀ p ∈ opcodePatterns, p.1.extractLsb' 12 4 = BitVec.allOnes 4 := List.all_iff_forall_prop.mp rfl
  exact extractLsb'_of_row h 12 4 (hmask p hp)

theorem opN_of_row {w : Word} {p : Word × Word} (hmask : opN p.1 = 0xF#4) (h : w &&& p.1 = p.2) : opN w = opN p.2 :=
  extractLsb'_of_row h 0 4 hmask

theorem opNN_of_row {w : Word} {p : Word × Word} (hmask : opNN p.1 = 0xFF#8) (h : w &&& p.1 = p.2) : opNN w = opNN p.2 :=
  extractLsb'_of_row h 0 8 hmask

/-! ### What a row of each selecting major fixes: read off the table -/

theorem row_of_major0 : ∀ p ∈ opcodePatterns, opMajor p.2 = 0x0#4 → p.1 = 0xFFFF#16 ∧ (p.2 = 0x00E0#16 ∨ p.2 = 0x00EE#16) :=
  List.all_iff_forall_prop.mp rfl

theorem row_of_major5_or_9 : ∀ p ∈ opcodePatterns, opMajor p.2 = 0x5#4 ∨ opMajor p.2 = 0x9#4 → opN p.1 = 0xF#4 ∧ opN p.2 = 0#4 :=
  List.all_iff_forall_prop.mp rfl

theorem row_of_major8 : ∀ p ∈ opcodePatterns, opMajor p.2 = 0x8#4 →
    opN p.1 = 0xF#4 ∧ (opN p.2).toNat ∈ [0x0, 0x1, 0x2, 0x3, 0x4, 0x5, 0x6, 0x7, 0xE] :=
  List.all_iff_forall_prop.mp rfl

theorem row_of_majorE : ∀ p ∈ opcodePatterns, opMajor p.2 = 0xE#4 → opNN p.1 = 0xFF#8 ∧ (opNN p.2 = 0x9E#8 ∨ opNN p.2 = 0xA1#8) :=
  List.all_iff_forall_prop.mp rfl

theorem row_of_majorF : ∀ p ∈ opcodePatterns, opMajor p.2 = 0xF#4 →
    opNN p.1 = 0xFF#8 ∧ (opNN p.2).toNat ∈ [0x07, 0x0A, 0x15, 0x18, 0x1E, 0x29, 0x33, 0x55, 0x65] :=
  List.all_iff_forall_prop.mp rfl

/-! ### What is decoded is well-formed -/

/-- A word is reserved if each row of its major contradicts it. -/
theorem isReservedWord_of_major {w : Word}
    (h : ∀ p ∈ opcodePatterns, opMajor p.2 = opMajor w → w &&& p.1 = p.2 → False) : isReservedWord w = true :=
  isReservedWord_iff.mpr fun p hp hrow => h p hp (opMajor_of_row hp hrow).symm hrow

theorem wellFormed_decodeMajor0 {w : Word} (hm : opMajor w = 0x0#4) : (decodeMajor0 w).wellFormed = true := by
  unfold decodeMajor0
  split_ifs with hcls hret
  · rfl
  · rfl
  · refine isReservedWord_of_major fun p hp hmajor hrow => ?_
    obtain ⟨hmask, hmatch⟩ := row_of_major0 p hp (hmajor.trans hm)
    rw [hmask, show 0xFFFF#16 = BitVec.allOnes 16 from rfl, BitVec.and_allOnes] at hrow
    exact hmatch.elim (fun h => hcls (hrow.trans h)) fun h => hret (hrow.trans h)

theorem wellFormed_decodeIfMinor0 {w : Word} {i : Instr} (hm : opMajor w = 0x5#4 ∨ opMajor w = 0x9#4) (hi : i.wellFormed = true) :
    (decodeIfMinor0 w i).wellFormed = true := by
  unfold decodeIfMinor0
  split_ifs with hminor
  · exact hi
  · refine isReservedWord_of_major fun p hp hmajor hrow => ?_
    obtain ⟨hmask, hmatch⟩ := row_of_major5_or_9 p hp (by rwa [hmajor])
    exact hminor ((opN_of_row hmask hrow).trans hmatch)

theorem wellFormed_decodeMajor8 {w : Word} (hm : opMajor w = 0x8#4) : (decodeMajor8 w).wellFormed = true := by
  unfold decodeMajor8
  split
  case h_10 =>
    refine isReservedWord_of_major fun p hp hmajor hrow => ?_
    obtain ⟨hmask, hmatch⟩ := row_of_major8 p hp (hmajor.trans hm)
    rw [← opN_of_row hmask hrow] at hmatch
    simp_all
  all_goals rfl

theorem wellFormed_decodeMajorE {w : Word} (hm : opMajor w = 0xE#4) : (decodeMajorE w).wellFormed = true := by
  unfold decodeMajorE
  split_ifs with hskp hsknp
  · rfl
  · rfl
  · refine isReservedWord_of_major fun p hp hmajor hrow => ?_
    obtain ⟨hmask, hmatch⟩ := row_of_majorE p hp (hmajor.trans hm)
    rw [← opNN_of_row hmask hrow] at hmatch
    exact hmatch.elim hskp hsknp

theorem wellFormed_decodeMajorF {w : Word} (hm : opMajor w = 0xF#4) : (decodeMajorF w).wellFormed = true := by
  unfold decodeMajorF
  split
  case h_10 =>
    refine isReservedWord_of_major fun p hp hmajor hrow => ?_
    obtain ⟨hmask, hmatch⟩ := row_of_majorF p hp (hmajor.trans hm)
    rw [← opNN_of_row hmask hrow] at hmatch
    simp_all
  all_goals rfl

/-- Every word decodes to a well-formed instruction: where a major selects further, the reserved no-op is left only to words that no row
of the major matches. -/
theorem wellFormed_decode (w : Word) : (decode w).wellFormed = true := by
  unfold decode
  split
  case h_1 h => exact wellFormed_decodeMajor0 (BitVec.eq_of_toNat_eq h)
  case h_6 h => exact wellFormed_decodeIfMinor0 (.inl (BitVec.eq_of_toNat_eq h)) rfl
  case h_9 h => exact wellFormed_decodeMajor8 (BitVec.eq_of_toNat_eq h)
  case h_10 h => exact wellFormed_decodeIfMinor0 (.inr (BitVec.eq_of_toNat_eq h)) rfl
  case h_15 h => exact wellFormed_decodeMajorE (BitVec.eq_of_toNat_eq h)
  case h_16 =>
    have hlast : (opMajor w).toNat = 15 := by
      simp only [imp_false] at *
      omega
    exact wellFormed_decodeMajorF (BitVec.eq_of_toNat_eq hlast)
  all_goals rfl

/-- Settles O26: no bit is lost in decoding, and the reserved no-op is well-formed where the decoder gives it. -/
theorem encodeInvertsDecode : Obligations.EncodeInvertsDecode := fun w => ⟨wellFormed_decode w, encode_decode w⟩

/-- Settles O27: a word of no row is reserved, and the reserved no-op of a word is well-formed exactly where no row matches the word. -/
theorem reservedWordsMatchNoPattern : Obligations.ReservedWordsMatchNoPattern := by
  intro w
  rw [← isReservedWord_iff]
  constructor
  · exact decode_of_isReservedWord
  · intro h
    have hwf := wellFormed_decode w
    rwa [h] at hwf

/-- Settles O28: the decoder evaluated on ten fixed words. -/
theorem sampleWordsDecode : Obligations.SampleWordsDecode :=
  ⟨rfl, rfl, rfl, rfl, rfl, rfl, rfl, rfl, rfl, rfl⟩

end Sys2Proof
end

section
/-! PROOFS. The invariant (10_state.md section 12): what keeps it is the memory written inside the writable addresses or DISPLAY, and the
return addresses pushed; construction has it and every step keeps it. -/

namespace Sys2Proof.Machine

/-! ### Operations that keep the invariant -/

/-- The invariant speaks of the parameters, the memory and the stack only. -/
theorem State.Inv.congr {s t : State} (h : s.Inv) (hcfg : t.cfg = s.cfg) (hmem : t.mem = s.mem) (hstack : t.stack = s.stack)
    (hsp : t.sp = s.sp) : t.Inv where
  legal := by rw [hcfg]; exact h.legal
  canonical := by rw [hcfg, hmem]; exact h.canonical
  inside := by rw [hcfg, hmem]; exact h.inside
  font k := by simpa only [State.byteAt, hcfg, hmem] using h.font k
  returns := by rw [hstack, hsp]; exact h.returns

theorem State.Inv.advance_complete {s : State} (h : s.Inv) : s.advance.complete.Inv := h.congr rfl rfl rfl rfl

theorem State.Inv.loadFirstRegs {s : State} (h : s.Inv) (x : RegId) (bs : List Byte) : (s.loadFirstRegs x bs).Inv :=
  h.congr (s.loadFirstRegs_cfg x bs) (s.loadFirstRegs_mem x bs) (s.loadFirstRegs_stack x bs) (s.loadFirstRegs_sp x bs)

/-- A change of memory keeps the invariant if it keeps the canonical form and the font and lists only readable addresses. -/
theorem State.Inv.of_memory {s t : State} (h : s.Inv) (hcfg : t.cfg = s.cfg) (hstack : t.stack = s.stack) (hsp : t.sp = s.sp)
    (hwf : Memory.Wf s.cfg.font t.mem) (hmem : ∀ c ∈ t.mem, Readable s.cfg c.1 ∨ c ∈ s.mem)
    (hfont : ∀ a, a < 80 → t.byteAt a = s.byteAt a) : t.Inv where
  legal := by rw [hcfg]; exact h.legal
  canonical := by rw [hcfg]; exact hwf
  inside c hc := by rw [hcfg]; exact (hmem c hc).elim id (h.inside c)
  font k := by rw [hfont k.val k.isLt, hcfg]; exact h.font k
  returns := by rw [hstack, hsp]; exact h.returns

/-- A store to writable addresses keeps the invariant: they are readable and beyond the font. -/
theorem State.Inv.setBytes {s : State} (h : s.Inv) {a : Nat} {bs : List Byte} (hw : ∀ k, k < bs.length → Writable s.cfg (a + k)) :
    (s.setBytes a bs).Inv := by
  refine h.of_memory (by simp) (by simp) (by simp) (State.setBytes_wf a bs h.canonical) (fun c hc => ?_) fun p hp => ?_
  · refine (State.mem_setBytes hc).imp_left fun ⟨hlo, hhi⟩ => ?_
    have hreadable := (hw (c.1 - a) (by omega)).1
    rwa [Nat.add_sub_cancel' hlo] at hreadable
  · rw [State.setBytes_byteAt, dif_neg]
    rintro ⟨hlo, hhi⟩
    have hfont := (hw (p - a) hhi).2
    omega

/-- Every address of DISPLAY is readable at a legal size. -/
theorem readable_of_display {c : Config} (hlegal : c.Legal) {a : Nat} (hlo : c.displayStart ≤ a) (hhi : a < c.displayStart + 256) :
    Readable c a := by
  rw [Config.displayStart_eq] at hlo hhi
  exact ⟨by omega, by omega⟩

/-- A sprite writes only DISPLAY, which lies beyond the font, so it keeps the invariant. -/
theorem State.Inv.drawSprite {s : State} (h : s.Inv) (x0 y0 : Nat) (rows : List Byte) : (s.drawSprite x0 y0 rows).Inv := by
  have hwf := State.flipPixels_wf (spritePixels x0 y0 rows) h.canonical
  refine h.of_memory (by simp) (by simp) (by simp) hwf (fun c hc => ?_) fun p hp => ?_
  · refine (State.mem_flipPixels (spritePixels_onScreen x0 y0 rows) hc).imp_left fun ⟨hlo, hhi⟩ => ?_
    exact readable_of_display h.legal hlo hhi
  · refine s.drawSprite_byteAt x0 y0 rows (.inl ?_)
    have hmin := h.legal.1
    rw [Config.displayStart_eq]
    omega

/-- Clearing the screen drops cells of DISPLAY, so it keeps the invariant. -/
theorem State.Inv.clearDisplay {s : State} (h : s.Inv) : s.clearDisplay.Inv := by
  refine h.of_memory rfl rfl rfl (State.clearDisplay_wf h.canonical) (fun c hc => .inr (List.mem_filter.mp hc).1) fun p hp => ?_
  have hmin := h.legal.1
  exact s.clearDisplay_byteAt_below (by omega)

/-- A push of an even return address keeps the invariant. -/
theorem State.Inv.push {s : State} (h : s.Inv) {a : Word} (ha : a.toNat % 2 = 0) (hroom : s.sp.val < 12) :
    State.Inv { s with stack := s.stack.set s.sp.val a hroom, sp := ⟨s.sp.val + 1, by omega⟩ } where
  legal := h.legal
  canonical := h.canonical
  inside := h.inside
  font := h.font
  returns k hk := by
    dsimp only at hk ⊢
    rw [stack_set_getElem]
    split_ifs with htop
    · exact ha
    · exact h.returns k (by omega)

/-- A pop keeps the invariant: fewer return addresses are live. -/
theorem State.Inv.pop {s : State} (h : s.Inv) {n : Fin 13} (hn : n.val ≤ s.sp.val) : State.Inv { s with sp := n } where
  legal := h.legal
  canonical := h.canonical
  inside := h.inside
  font := h.font
  returns k hk := h.returns k (Nat.lt_of_lt_of_le hk hn)

/-- A store of a block at `I` keeps the invariant, also where it faults. -/
theorem State.Inv.storeBlock {s : State} (h : s.Inv) (bs : List Byte) : (s.completeOr (s.advance.writeBlock s.base bs)).Inv := by
  rcases s.storeBlock_cases bs with ⟨hw, hend⟩ | ⟨r, hend, -⟩ <;> rw [hend]
  · have hadvance : s.advance.Inv := h.congr rfl rfl rfl rfl
    exact (hadvance.setBytes hw).congr rfl rfl rfl rfl
  · exact h.congr rfl rfl rfl rfl

/-! ### Instructions and steps -/

/-- The address after an even `pc` is even, also where it wraps (40_step_cycle.md R100). -/
theorem add_two_even {pc : Word} (h : pc.toNat % 2 = 0) : (pc + 2#16).toNat % 2 = 0 := by
  rw [BitVec.toNat_add]
  simp only [BitVec.toNat_ofNat]
  omega

/-- An instruction fetched at an even `pc` keeps the invariant. -/
theorem exec_inv {i : Instr} {s t : State} (hinv : s.Inv) (heven : s.pc.toNat % 2 = 0) (h : exec i s = .next t) : t.Inv := by
  cases i
  case cls =>
    cases h
    exact hinv.clearDisplay.congr rfl rfl rfl rfl
  case drw x y n =>
    rcases execDrw_cases x y n s with ⟨-, hend⟩ | ⟨r, hend, -⟩ <;> cases hend.symm.trans h
    · exact (hinv.drawSprite _ _ _).advance_complete
    · exact hinv.congr rfl rfl rfl rfl
  case ldBcd x =>
    cases h
    exact hinv.storeBlock _
  case storeRegs x =>
    cases h
    exact hinv.storeBlock _
  case loadRegs x =>
    rcases execLoadRegs_cases x s with ⟨-, hend⟩ | ⟨r, hend, -⟩ <;> obtain rfl := Host.Outcome.next.inj (hend.symm.trans h)
    · exact (hinv.loadFirstRegs _ _).advance_complete
    · exact hinv.congr rfl rfl rfl rfl
  case ret =>
    rcases execRet_cases s with ⟨_, hend⟩ | ⟨_, hend⟩ <;> cases hend.symm.trans h
    · exact hinv.congr rfl rfl rfl rfl
    · exact (hinv.pop (n := ⟨s.sp.val - 1, by omega⟩) (Nat.sub_le ..)).congr rfl rfl rfl rfl
  case call nnn =>
    rcases execCall_cases nnn s with ⟨_, hend⟩ | ⟨hroom, hend⟩ <;> cases hend.symm.trans h
    · exact hinv.congr rfl rfl rfl rfl
    · exact (hinv.push (add_two_even heven) hroom).congr rfl rfl rfl rfl
  case addI x =>
    rcases execAddI_cases x s with ⟨-, hend⟩ | ⟨-, hend⟩ <;> cases hend.symm.trans h <;> exact hinv.congr rfl rfl rfl rfl
  case ldVxK x =>
    rcases execLdVxK_cases x s with ⟨-, hend⟩ | ⟨k, -, hend⟩ <;> cases hend.symm.trans h <;> exact hinv.congr rfl rfl rfl rfl
  all_goals
    cases h
    exact hinv.congr rfl rfl rfl rfl

/-- The end of a step keeps the invariant: it writes timers and inputs. -/
theorem State.Inv.finishStep {s : State} (h : s.Inv) : s.finishStep.Inv :=
  h.congr s.finishStep_cfg s.finishStep_mem s.finishStep_stack s.finishStep_sp

/-- A fetch that gives a word is at an even `pc` (20_memory.md R45). -/
theorem State.pc_even_of_fetch {s : State} {op : Word} (h : s.fetch = .ok op) : s.pc.toNat % 2 = 0 := by
  rcases s.fetch_cases with ⟨hnone, -⟩ | ⟨r, -, herror⟩
  · exact (fetchFault_none.mp hnone).2.2
  · cases herror.symm.trans h

/-- Settles O7: a step is a repeated result, a fetch fault or an instruction at an even `pc`, and then the end of the step; each keeps the
invariant. -/
theorem stepKeepsInvariant : Obligations.StepKeepsInvariant := by
  intro s t hinv h
  rcases step_cases h with ⟨-, rfl⟩ | ⟨r, -, rfl⟩ | ⟨-, r, -, rfl⟩ | ⟨-, op, u, hfetch, hexec, rfl⟩
  · exact State.Inv.finishStep (s := s.repeatHalted) (hinv.congr rfl rfl rfl rfl)
  · exact State.Inv.finishStep (s := s.repeatFaulted r) (hinv.congr rfl rfl rfl rfl)
  · exact State.Inv.finishStep (s := s.raiseFault r) (hinv.congr rfl rfl rfl rfl)
  · exact (exec_inv hinv (State.pc_even_of_fetch hfetch) hexec).finishStep

/-! ### Construction, reset and the host's operations -/

/-- A VM with nothing loaded has no cell listed and no return address live. -/
theorem State.blank_inv {c : Config} (hlegal : c.Legal) : (State.blank c).Inv where
  legal := hlegal
  canonical := ⟨.nil, nofun⟩
  inside := nofun
  font k := unlistedByte_of_lt c.font k.isLt
  returns _ hk := absurd hk (Nat.not_lt_zero _)

/-- Settles O6: the ROM is a store to writable addresses, between 512 and RESERVED. -/
theorem constructionMeetsInvariant : Obligations.ConstructionMeetsInvariant := by
  intro c rom s h
  obtain ⟨hlegal, hrom, rfl⟩ := construct_ok_iff.mp h
  refine (State.blank_inv hlegal).setBytes fun k hk => ?_
  change Writable c (512 + k)
  exact ⟨⟨by omega, by omega⟩, by omega⟩

/-- Settles O4: an empty ROM leaves the blank VM. -/
theorem resetIsCanonicalConstruction : Obligations.ResetIsCanonicalConstruction := rfl

/-- Settles O5: the reset state is a constructed one. -/
theorem resetMeetsInvariant : Obligations.ResetMeetsInvariant :=
  constructionMeetsInvariant _ _ _ resetIsCanonicalConstruction

/-- Settles O8: the two operations write the timers or the draw flag. -/
theorem hostOperationsKeepInvariant : Obligations.HostOperationsKeepInvariant := fun _ h =>
  ⟨h.congr rfl rfl rfl rfl, h.congr rfl rfl rfl rfl⟩

/-- Settles O2: memory as construction leaves it, byte by byte; the other fields are the blank VM's. -/
theorem constructedMemoryAndFlags : Obligations.ConstructedMemoryAndFlags := by
  intro c rom s h
  refine ⟨fun a ha => ?_, fun k hk => construct_byteAt_rom h hk, fun a hlo ha => ?_, construct_cfg h, ?_⟩
  · rw [construct_byteAt_of_not_rom h (.inl (by omega)), unlistedByte_of_lt _ ha]
  · rw [construct_byteAt_of_not_rom h ha, unlistedByte_of_ge _ hlo]
  · obtain ⟨-, -, rfl⟩ := construct_ok_iff.mp h
    refine ⟨State.setBytes_status .., State.setBytes_drawFlag .., fun k => ?_⟩
    rw [State.setBytes_stack]
    simp [State.blank, State.reset]

/-- Settles O3: the checks of `construct` in their order (70_reset_and_hazards.md R251). -/
theorem constructErrors : Obligations.ConstructErrors := by
  intro c rom
  refine ⟨fun hsmall => if_pos hsmall, fun hmin hlarge => ?_, fun ⟨hmin, hmax⟩ hrom => ?_, fun hlegal hrom => ?_⟩
  · rw [construct, if_neg (Nat.not_lt.mpr hmin), if_pos hlarge]
  · rw [construct, if_neg (Nat.not_lt.mpr hmin), if_neg (Nat.not_lt.mpr hmax), Config.maxRomLen_eq, if_pos hrom]
  · exact ⟨_, construct_ok_iff.mpr ⟨hlegal, hrom, rfl⟩⟩

end Sys2Proof.Machine
end

section
/-! PROOFS. The frame of every instruction (40_step_cycle.md R96): what each may change besides `pc` and what the step reports. -/

namespace Sys2Proof.Machine

/-- What a completed instruction may change besides `pc` and what the step reports (10_state.md R11 to R18, 20_memory.md R40). -/
def effectOf : Instr → Changes
  | .cls | .ldBcd _ | .storeRegs _ => { memory := true, drawFlag := true }
  | .drw _ _ _ => { v := true, memory := true, drawFlag := true }
  | .ret | .call _ => { stack := true }
  | .ldI _ | .ldFont _ => { i := true }
  | .addI _ => { v := true, i := true }
  | .ldDtVx _ => { delay := true }
  | .ldStVx _ => { sound := true }
  | .ldImm _ _ | .addImm _ _ | .ldReg _ _ | .orReg _ _ | .andReg _ _ | .xorReg _ _ | .addReg _ _ | .subReg _ _ => { v := true }
  | .shr _ _ | .subnReg _ _ | .shl _ _ | .rnd _ _ | .ldVxDt _ | .ldVxK _ | .loadRegs _ => { v := true }
  | .jp _ | .jpV0 _ | .seImm _ _ | .sneImm _ _ | .seReg _ _ | .sneReg _ _ | .skp _ | .sknp _ | .nopReserved _ => {}

/-- A frame that lets the status change too. -/
theorem Frame.with_status {c : Changes} {s t : State} (h : Frame c s t) : Frame { c with status := true } s t where
  v := h.v
  i := h.i
  stack := h.stack
  delay := h.delay
  sound := h.sound
  drawFlag := h.drawFlag
  memory := h.memory
  status := nofun
  cfg := h.cfg
  inputs := h.inputs

/-! ### The effects with no frame of their own above -/

theorem State.setFlagThen_advance_complete_frame (s : State) (f : Byte) (x : RegId) (b : Byte) :
    Frame { v := true } s (s.setFlagThen f x b).advance.complete :=
  .of_eq (.inl rfl) (.inr rfl) (.inr ⟨rfl, rfl⟩) (.inr rfl) (.inr rfl) (.inr rfl) (.inr rfl) (.inr rfl) rfl rfl rfl

theorem State.setI_setV_advance_complete_frame (s : State) (a : Word) (x : RegId) (b : Byte) :
    Frame { v := true, i := true } s ((s.setI a).setV x b).advance.complete :=
  .of_eq (.inl rfl) (.inl rfl) (.inr ⟨rfl, rfl⟩) (.inr rfl) (.inr rfl) (.inr rfl) (.inr rfl) (.inr rfl) rfl rfl rfl

theorem State.loadFirstRegs_advance_complete_frame (s : State) (x : RegId) (bs : List Byte) :
    Frame { v := true } s (s.loadFirstRegs x bs).advance.complete :=
  .of_eq (.inl rfl) (by simp) (by simp) (by simp) (by simp) (by simp) (by simp) (by simp) (by simp) (by simp) (by simp)

theorem State.return_frame (s : State) (n : Fin 13) (a : Word) : Frame { stack := true } s ({ s with sp := n }.setPc a).complete :=
  .of_eq (.inr rfl) (.inr rfl) (.inl rfl) (.inr rfl) (.inr rfl) (.inr rfl) (.inr rfl) (.inr rfl) rfl rfl rfl

theorem State.drawSprite_advance_complete_frame (s : State) (x0 y0 : Nat) (rows : List Byte) :
    Frame { v := true, memory := true, drawFlag := true } s (s.drawSprite x0 y0 rows).advance.complete :=
  .of_eq (.inl rfl) (by simp) (by simp) (by simp) (by simp) (.inl rfl) (.inl rfl) (by simp) (by simp) (by simp) (by simp)

/-- A stored block changes memory and the draw flag. -/
theorem State.stored_frame (s : State) (a : Nat) (bs : List Byte) (d : Bool) :
    Frame { memory := true, drawFlag := true } s ((s.advance.setBytes a bs).setDrawFlag d).complete :=
  .of_eq (by simp) (by simp) (by simp) (by simp) (by simp) (.inl rfl) (.inl rfl) (by simp) (by simp) (by simp) (by simp)

theorem State.storeBlock_frame {s : State} {bs : List Byte} (hc : (s.completeOr (s.advance.writeBlock s.base bs)).result = some .cont) :
    Frame { memory := true, drawFlag := true } s (s.completeOr (s.advance.writeBlock s.base bs)) := by
  rcases s.storeBlock_cases bs with ⟨-, hend⟩ | ⟨r, hend, -⟩ <;> rw [hend] at hc ⊢
  · exact s.stored_frame ..
  · cases hc

/-! ### Every instruction -/

/-- What a completed instruction leaves unchanged. -/
theorem exec_frame_of_cont {i : Instr} {s t : State} (h : exec i s = .next t) (hc : t.result = some .cont) : Frame (effectOf i) s t := by
  cases i with
  | cls =>
    cases h
    exact s.cls_frame
  | ret =>
    rcases execRet_cases s with ⟨_, hend⟩ | ⟨_, hend⟩ <;> cases hend.symm.trans h
    · cases hc
    · exact s.return_frame ..
  | call nnn =>
    rcases execCall_cases nnn s with ⟨_, hend⟩ | ⟨_, hend⟩ <;> cases hend.symm.trans h
    · cases hc
    · exact s.call_frame ..
  | addI x =>
    rcases execAddI_cases x s with ⟨_, hend⟩ | ⟨_, hend⟩ <;> cases hend.symm.trans h
    · cases hc
    · exact s.setI_setV_advance_complete_frame ..
  | ldVxK x =>
    rcases execLdVxK_cases x s with ⟨_, hend⟩ | ⟨k, _, hend⟩ <;> cases hend.symm.trans h
    · cases hc
    · exact s.setV_advance_complete_frame ..
  | drw x y n =>
    rcases execDrw_cases x y n s with ⟨_, hend⟩ | ⟨r, hend, _⟩ <;> cases hend.symm.trans h
    · exact s.drawSprite_advance_complete_frame ..
    · cases hc
  | loadRegs x =>
    rcases execLoadRegs_cases x s with ⟨_, hend⟩ | ⟨r, hend, _⟩ <;> obtain rfl := Host.Outcome.next.inj (hend.symm.trans h)
    · exact s.loadFirstRegs_advance_complete_frame ..
    · cases hc
  | ldBcd | storeRegs =>
    cases h
    exact State.storeBlock_frame hc
  | ldI | ldFont =>
    cases h
    exact s.setI_advance_complete_frame _
  | ldDtVx =>
    cases h
    exact s.setDelay_advance_complete_frame _
  | ldStVx =>
    cases h
    exact s.setSound_advance_complete_frame _
  | ldImm | addImm | ldReg | orReg | andReg | xorReg | rnd | ldVxDt =>
    cases h
    exact s.setV_advance_complete_frame ..
  | addReg | subReg | shr | subnReg | shl =>
    cases h
    exact s.setFlagThen_advance_complete_frame ..
  | jp | jpV0 | seImm | sneImm | seReg | sneReg | skp | sknp | nopReserved =>
    cases h
    exact s.setPc_complete_frame _

/-- A halt, a wait and a fault write the status and the result only. -/
theorem State.report_frame (c : Changes) (s : State) (st : Status) (r : StepResult) :
    Frame { c with status := true } s { s with status := st, result := some r } :=
  .of_eq (.inr rfl) (.inr rfl) (.inr ⟨rfl, rfl⟩) (.inr rfl) (.inr rfl) (.inr rfl) (.inr rfl) (.inl rfl) rfl rfl rfl

/-- What an instruction leaves unchanged, whichever way it ends. -/
theorem exec_frame {i : Instr} {s t : State} (h : exec i s = .next t) : Frame { effectOf i with status := true } s t := by
  cases exec_ends h with
  | done result => exact (exec_frame_of_cont h result).with_status
  | halted _ _ state => exact state ▸ s.report_frame ..
  | waiting _ state => exact state ▸ s.report_frame ..
  | faulted _ _ _ state => exact state ▸ s.report_frame ..

/-- The V registers an instruction does not write keep their values, whichever way it ends. -/
theorem exec_getV_of_not_writesV {i : Instr} {s t : State} (h : exec i s = .next t) {z : RegId} (hz : writesV i z = false) :
    t.getV z = s.getV z := by
  cases i with
  | drw x y n =>
    have hz : z ≠ 15#4 := by simpa [writesV] using hz
    rcases execDrw_cases x y n s with ⟨_, hend⟩ | ⟨r, hend, _⟩ <;> cases hend.symm.trans h
    · simp [State.drawSprite_getV, hz]
    · rfl
  | addI x =>
    have hz : z ≠ 15#4 := by simpa [writesV] using hz
    rcases execAddI_cases x s with ⟨_, hend⟩ | ⟨_, hend⟩ <;> cases hend.symm.trans h
    · rfl
    · simp [hz]
  | ldVxK x =>
    have hz : z ≠ x := by simpa [writesV] using hz
    rcases execLdVxK_cases x s with ⟨_, hend⟩ | ⟨k, _, hend⟩ <;> cases hend.symm.trans h
    · rfl
    · simp [hz]
  | loadRegs x =>
    have hz : ¬z.toNat ≤ x.toNat := by simpa [writesV] using hz
    rcases execLoadRegs_cases x s with ⟨_, hend⟩ | ⟨r, hend, _⟩ <;> obtain rfl := Host.Outcome.next.inj (hend.symm.trans h)
    · simp [State.loadFirstRegs_getV, hz]
    · rfl
  | ldImm x | addImm x | ldReg x | orReg x | andReg x | xorReg x | rnd x | ldVxDt x =>
    have hz : z ≠ x := by simpa [writesV] using hz
    cases h
    simp [hz]
  | addReg x | subReg x | shr x | subnReg x | shl x =>
    have hz : z ≠ x ∧ z ≠ 15#4 := by simpa [writesV] using hz
    cases h
    simp [State.setFlagThen_getV, hz]
  | cls | ret | jp | call | seImm | sneImm | seReg | sneReg | ldI | jpV0 | skp | sknp | ldDtVx | ldStVx | ldFont | ldBcd | storeRegs
  | nopReserved => exact (exec_frame h).v rfl z

/-! ### Which instructions have which effect -/

theorem effectOf_of_not_writesMemory {i : Instr} (h : writesMemory i = false) :
    (effectOf i).memory = false ∧ (effectOf i).drawFlag = false := by
  cases i with
  | cls | drw | ldBcd | storeRegs => cases h
  | _ => exact ⟨rfl, rfl⟩

theorem effectOf_stack {i : Instr} (hcall : ∀ a, i ≠ .call a) (hret : i ≠ .ret) : (effectOf i).stack = false := by
  cases i with
  | call a => exact absurd rfl (hcall a)
  | ret => exact absurd rfl hret
  | _ => rfl

theorem effectOf_delay {i : Instr} (h : ∀ x, i ≠ .ldDtVx x) : (effectOf i).delay = false := by
  cases i with
  | ldDtVx x => exact absurd rfl (h x)
  | _ => rfl

theorem effectOf_sound {i : Instr} (h : ∀ x, i ≠ .ldStVx x) : (effectOf i).sound = false := by
  cases i with
  | ldStVx x => exact absurd rfl (h x)
  | _ => rfl

theorem effectOf_i {i : Instr} (hldI : ∀ a, i ≠ .ldI a) (haddI : ∀ x, i ≠ .addI x) (hldFont : ∀ x, i ≠ .ldFont x) :
    (effectOf i).i = false := by
  cases i with
  | ldI a => exact absurd rfl (hldI a)
  | addI x => exact absurd rfl (haddI x)
  | ldFont x => exact absurd rfl (hldFont x)
  | _ => rfl

/-- Settles O21: memory and the draw flag are in the effect of the four instructions only. -/
theorem memoryWrittenByFourInstructionsOnly : Obligations.MemoryWrittenByFourInstructionsOnly := fun _ _ _ hw h =>
  ⟨(exec_frame h).memory (effectOf_of_not_writesMemory hw).1, (exec_frame h).drawFlag (effectOf_of_not_writesMemory hw).2⟩

/-- Settles O22, by the frame of the instruction, and for the V registers by what it writes to them. -/
theorem onlyNamedStateChanges : Obligations.OnlyNamedStateChanges := fun _ _ _ h =>
  ⟨fun _ hz => exec_getV_of_not_writesV h hz, fun hcall hret => (exec_frame h).stack (effectOf_stack hcall hret),
    fun hne => (exec_frame h).delay (effectOf_delay hne), fun hne => (exec_frame h).sound (effectOf_sound hne),
    fun hldI haddI hldFont => (exec_frame h).i (effectOf_i hldI haddI hldFont)⟩

end Sys2Proof.Machine
end

section
/-! PROOFS. The step cycle (40_step_cycle.md): the step is total, how it ends, and the states in which it stays. -/

namespace Sys2Proof.Machine

/-! ### A step of a running machine -/

/-- Every instruction answers a next state: a VM fault is one (log 7). -/
theorem exec_total (i : Instr) (s : State) : ∃ t, exec i s = .next t := by
  cases i with
  | ret => rcases execRet_cases s with ⟨_, hend⟩ | ⟨_, hend⟩ <;> exact ⟨_, hend⟩
  | call nnn => rcases execCall_cases nnn s with ⟨_, hend⟩ | ⟨_, hend⟩ <;> exact ⟨_, hend⟩
  | addI x => rcases execAddI_cases x s with ⟨_, hend⟩ | ⟨_, hend⟩ <;> exact ⟨_, hend⟩
  | ldVxK x => rcases execLdVxK_cases x s with ⟨_, hend⟩ | ⟨_, _, hend⟩ <;> exact ⟨_, hend⟩
  | _ => exact ⟨_, rfl⟩

/-- A step that faults does not tick. -/
theorem State.raiseFault_finishStep (s : State) (r : FaultReason) : (s.raiseFault r).finishStep = s.afterFault r := by
  rw [State.finishStep_of_result (by simp)]
  rfl

/-- A step that halts does not tick. -/
theorem State.halt_finishStep (s : State) : s.halt.finishStep = s.afterHalt := by
  rw [State.finishStep_of_result (by simp)]
  rfl

theorem step_of_fetch_error {s : State} {r : FaultReason} (hs : s.status = .running) (hf : s.fetch = .error r) :
    step s = .next (s.afterFault r) := by
  rw [← State.raiseFault_finishStep]
  unfold step
  rw [hs]
  dsimp only
  rw [hf]

/-- The word of 00EE is the only one that decodes to it. -/
theorem decode_eq_ret_iff {w : Word} : decode w = .ret ↔ w = 0x00EE#16 := by
  constructor
  · intro h
    rw [← encode_decode w, h]
    rfl
  · rintro rfl
    rfl

/-! ### A step from a terminal status (R91) -/

/-- The state after `n` calls in a terminal status: the result reported, and the arguments of the calls used up. -/
def State.afterCalls (s : State) (r : StepResult) (n : Nat) : State :=
  { s with result := some r, inputs := s.inputs.drop n, freeIndex := s.freeIndex + n }

theorem State.afterCalls_one (s : State) (r : StepResult) : s.afterCalls r 1 = State.nextInput { s with result := some r } := by
  rw [State.afterCalls, List.drop_one]
  rfl

theorem State.afterCalls_succ (s : State) (r : StepResult) (n : Nat) : (s.afterCalls r 1).afterCalls r n = s.afterCalls r (n + 1) := by
  simp only [State.afterCalls, List.drop_drop, Nat.add_assoc, Nat.add_comm 1]

/-- A call in a terminal status returns the result that goes with the status, and ticks no timer. -/
theorem step_of_terminal {s : State} {r : StepResult} (hr : r.statusAfter = s.status) (hs : s.status ≠ .running) :
    step s = .next (s.afterCalls r 1) := by
  rw [State.afterCalls_one]
  cases r with
  | cont => exact absurd hr.symm hs
  | awaitingKey => exact absurd hr.symm hs
  | halted =>
    have hstep : step s = .next s.repeatHalted.finishStep := by rw [step, ← hr]; rfl
    rw [hstep, State.finishStep_of_result (by simp)]
    rfl
  | faulted r =>
    have hstep : step s = .next (s.repeatFaulted r).finishStep := by rw [step, ← hr]; rfl
    rw [hstep, State.finishStep_of_result (by simp)]
    rfl

theorem run_of_terminal {s : State} {r : StepResult} (hr : r.statusAfter = s.status) (hs : s.status ≠ .running) (n : Nat) :
    Host.Core.run Sys2Proof.core (n + 1) s = .next (s.afterCalls r (n + 1)) := by
  induction n generalizing s with
  | zero => exact run_next 0 (step_of_terminal hr hs)
  | succ n ih =>
    rw [run_next (n + 1) (step_of_terminal hr hs), ← State.afterCalls_succ s r (n + 1)]
    exact ih (s := s.afterCalls r 1) hr hs

/-- Each status is the one after some result. -/
theorem Status.exists_result (st : Status) : ∃ r : StepResult, r.statusAfter = st := by
  cases st with
  | running => exact ⟨.cont, rfl⟩
  | halted => exact ⟨.halted, rfl⟩
  | faulted r => exact ⟨.faulted r, rfl⟩

/-- Settles O14, by induction on the number of steps: each repeats the result of the status. -/
theorem terminalStatesStay : Obligations.TerminalStatesStay := by
  intro n s hs
  obtain ⟨r, hr⟩ := s.status.exists_result
  exact ⟨_, run_of_terminal hr hs n, rfl,
    .of_eq (.inr rfl) (.inr rfl) (.inr ⟨rfl, rfl⟩) (.inr rfl) (.inr rfl) (.inr rfl) (.inr rfl) (.inr rfl) rfl rfl rfl, r, rfl, hr⟩

/-! ### Totality and the result of a step -/

/-- Settles O9: a terminal status, a fetch fault and every instruction have a next state, and none of them writes the parameters. -/
theorem stepIsTotal : Obligations.StepIsTotal := by
  intro s
  by_cases hs : s.status = .running
  · rcases s.fetch_cases with ⟨-, hf⟩ | ⟨r, -, hf⟩
    · obtain ⟨u, hu⟩ := exec_total (decode (joinBytes (s.byteAt s.pc.toNat) (s.byteAt (s.pc.toNat + 1)))) s
      exact ⟨_, step_of_exec hs hf hu, by rw [State.finishStep_cfg, (exec_frame hu).cfg]⟩
    · exact ⟨_, step_of_fetch_error hs hf, rfl⟩
  · obtain ⟨r, hr⟩ := s.status.exists_result
    exact ⟨_, step_of_terminal hr hs, rfl⟩

/-- Settles O19, by the ways a step and an instruction can end. -/
theorem stepResultTellsStatus : Obligations.StepResultTellsStatus := by
  intro s t h
  rcases step_cases h with ⟨hs, rfl⟩ | ⟨r, hs, rfl⟩ | ⟨-, r, -, rfl⟩ | ⟨hs, op, u, -, hexec, rfl⟩ <;>
    rw [State.finishStep_result, State.finishStep_status]
  · exact ⟨.halted, rfl, hs.symm⟩
  · exact ⟨.faulted r, rfl, hs.symm⟩
  · exact ⟨.faulted r, rfl, rfl⟩
  · cases exec_ends hexec with
    | done result status => exact ⟨.cont, result, (status.trans hs).symm⟩
    | halted _ _ state => exact ⟨.halted, by rw [state, State.halt_result], by rw [state]; rfl⟩
    | waiting _ state => exact ⟨.awaitingKey, by rw [state, State.await_result], by rw [state, State.await_status, hs]; rfl⟩
    | faulted r _ _ state => exact ⟨.faulted r, by rw [state, State.raiseFault_result], by rw [state]; rfl⟩

/-- Settles O10: the two bytes are the fetched word, and the end of a step is the tick where due and the move to the next arguments. -/
theorem stepRunsDecodedInstruction : Obligations.StepRunsDecodedInstruction := by
  intro s i rest hs hfault hbytes _
  have hfetch : s.fetch = .ok (joinBytes (s.byteAt s.pc.toNat) (s.byteAt (s.pc.toNat + 1))) := by rw [State.fetch, hfault]
  cases hbytes
  exact step_of_fetch hs hfetch

theorem Frame.refl (s : State) : Frame {} s s :=
  .of_eq (.inr rfl) (.inr rfl) (.inr ⟨rfl, rfl⟩) (.inr rfl) (.inr rfl) (.inr rfl) (.inr rfl) (.inr rfl) rfl rfl rfl

/-- Settles O11: the end of a step ticks exactly on `Continue` with `TICK_ON_STEP`, which no instruction changes. -/
theorem tickAfterCompletedInstruction : Obligations.TickAfterCompletedInstruction := by
  intro s op u hs hf hu
  have hcfg : u.cfg = s.cfg := (exec_frame hu).cfg
  rw [← hcfg]
  exact ⟨_, step_of_exec hs hf hu, fun htick hcont => State.finishStep_timers_of_tick hcont htick,
    State.finishStep_timers_of_not_tick, u.finishStep_result, u.finishStep_pc, (Frame.refl u).finishStep⟩

/-! ### The fetch -/

theorem fetchFault_of_reserved {c : Config} {pc : Nat} (hin : pc + 1 < c.memSize) (hbad : ¬Readable c pc ∨ ¬Readable c (pc + 1)) :
    fetchFault c pc = some .reservedAccess := by
  have hreserved : c.inReserved pc = true ∨ c.inReserved (pc + 1) = true := by
    simp only [Config.inReserved, Config.reservedStart_eq, Config.displayStart_eq, decide_eq_true_eq]
    omega
  rw [fetchFault, if_neg (Nat.not_le.mpr hin), if_pos (Bool.or_eq_true_iff.mpr hreserved)]

theorem fetchFault_of_odd {c : Config} {pc : Nat} (h : Readable c pc) (h' : Readable c (pc + 1)) (hodd : pc % 2 = 1) :
    fetchFault c pc = some .misalignedFetch := by
  have hfree : ¬(c.inReserved pc || c.inReserved (pc + 1)) = true := by
    simp only [Config.inReserved, Config.reservedStart_eq, Config.displayStart_eq, Bool.or_eq_true, decide_eq_true_eq]
    omega
  rw [fetchFault, if_neg (Nat.not_le.mpr h'.1), if_neg hfree, if_pos hodd]

theorem fetchFault_ne_stackUnderflow (c : Config) (pc : Nat) : fetchFault c pc ≠ some .stackUnderflow := by
  unfold fetchFault
  split_ifs <;> nofun

/-- Settles O12: the step faults with the reason of the fetch check. -/
theorem fetchFaultsInOrder : Obligations.FetchFaultsInOrder := fun _ hs =>
  ⟨fun hpast => step_of_fetch_error hs (State.fetch_eq_error_iff.mpr (fetchFault_eq_outOfBounds_iff.mpr hpast)),
    fun hin hbad => step_of_fetch_error hs (State.fetch_eq_error_iff.mpr (fetchFault_of_reserved hin hbad)),
    fun h h' hodd => step_of_fetch_error hs (State.fetch_eq_error_iff.mpr (fetchFault_of_odd h h' hodd))⟩

/-- The first byte is the high one (20_memory.md R46). -/
theorem joinBytes_toNat (hi lo : Byte) : (joinBytes hi lo).toNat = hi.toNat * 256 + lo.toNat := by
  rw [joinBytes, BitVec.toNat_append, ← Nat.shiftLeft_add_eq_or_of_lt lo.isLt, Nat.shiftLeft_eq]

/-- Settles O13: the fetch answers the two bytes joined. -/
theorem fetchIsBigEndian : Obligations.FetchIsBigEndian := fun _ heven h h' =>
  ⟨_, State.fetch_of_readable h h' heven, joinBytes_toNat ..⟩

/-! ### Halts and faults -/

/-- Where a step of a running machine halts, it fetched 00EE at depth 0. -/
theorem step_halted {s t : State} (hs : s.status = .running) (h : step s = .next t) (ht : t.status = .halted) :
    s.fetch = .ok 0x00EE#16 ∧ s.sp.val = 0 ∧ t = s.afterHalt := by
  rcases step_cases h with ⟨hs', -⟩ | ⟨r, hs', -⟩ | ⟨-, r, -, rfl⟩ | ⟨-, op, u, hf, hexec, rfl⟩
  · cases hs.symm.trans hs'
  · cases hs.symm.trans hs'
  · rw [State.finishStep_status] at ht
    cases ht
  · rw [State.finishStep_status] at ht
    cases exec_ends hexec with
    | done _ status => cases (status.trans hs).symm.trans ht
    | halted instr depth state => exact ⟨by rw [hf, decode_eq_ret_iff.mp instr], depth, by rw [state, State.halt_finishStep]⟩
    | waiting _ state => rw [state, State.await_status, hs] at ht; cases ht
    | faulted _ _ _ state => rw [state] at ht; cases ht

/-- 00EE at depth 0 halts. -/
theorem step_of_ret_at_zero {s : State} (hs : s.status = .running) (hf : s.fetch = .ok 0x00EE#16) (hsp : s.sp.val = 0) :
    step s = .next s.afterHalt := by
  rcases execRet_cases s with ⟨-, hend⟩ | ⟨hpos, -⟩
  · rw [step_of_exec hs hf hend, State.halt_finishStep]
  · exact absurd hsp hpos.ne'

/-- Settles O15: the halting step is 00EE at depth 0 and no other, and a step of a halted machine repeats its result. -/
theorem haltOnlyByReturnAtDepthZero : Obligations.HaltOnlyByReturnAtDepthZero := by
  refine ⟨fun s t hs h => ⟨fun ht => ?_, fun ⟨hf, hsp⟩ => ?_⟩, fun s t hs h ht => ?_, fun s hs => ?_⟩
  · obtain ⟨hf, hsp, -⟩ := step_halted hs h ht
    exact ⟨hf, hsp⟩
  · cases (step_of_ret_at_zero hs hf hsp).symm.trans h
    rfl
  · obtain ⟨-, -, hstate⟩ := step_halted hs h ht
    exact hstate
  · rw [step_of_terminal (r := .halted) hs.symm (by rw [hs]; nofun), State.afterCalls_one, State.afterHalt, ← hs]
    rfl

/-- Where a step of a running machine faults, the reason comes from the fetch check or from the instruction, and nothing else changes. -/
theorem step_faulted {s t : State} {r : FaultReason} (hs : s.status = .running) (h : step s = .next t) (ht : t.status = .faulted r) :
    r ≠ .stackUnderflow ∧ t = s.afterFault r := by
  rcases step_cases h with ⟨hs', -⟩ | ⟨r', hs', -⟩ | ⟨-, r', hf, rfl⟩ | ⟨-, op, u, hf, hexec, rfl⟩
  · cases hs.symm.trans hs'
  · cases hs.symm.trans hs'
  · rw [State.finishStep_status] at ht
    cases ht
    refine ⟨?_, s.raiseFault_finishStep r⟩
    rintro rfl
    exact fetchFault_ne_stackUnderflow _ _ (State.fetch_eq_error_iff.mp hf)
  · rw [State.finishStep_status] at ht
    cases exec_ends hexec with
    | done _ status => cases (status.trans hs).symm.trans ht
    | halted _ _ state => rw [state] at ht; cases ht
    | waiting _ state => rw [state, State.await_status, hs] at ht; cases ht
    | faulted r' _ reason state =>
      subst state
      cases ht
      exact ⟨reason, s.raiseFault_finishStep r⟩

/-- Settles O16, by the two sources of a fault, each of which writes the status and the result only. -/
theorem faultsArePrecise : Obligations.FaultsArePrecise := fun _ _ _ hs h ht => (step_faulted hs h ht).2

/-- Settles O18: neither the fetch check nor an instruction gives that reason. -/
theorem stackUnderflowNeverRaised : Obligations.StackUnderflowNeverRaised := fun _ _ hs h ht => (step_faulted hs h ht).1 rfl

/-- Settles O17: the faulting end is that of an instruction of `canFault`. -/
theorem onlyListedInstructionsFault : Obligations.OnlyListedInstructionsFault := by
  intro i s t hi hs h r ht
  cases exec_ends h with
  | done _ status => cases (status.trans hs).symm.trans ht
  | halted _ _ state => rw [state] at ht; cases ht
  | waiting _ state => rw [state, State.await_status, hs] at ht; cases ht
  | faulted _ instr => cases hi.symm.trans instr

/-! ### Runs -/

/-- The results after which a run goes on are those that leave the machine running. -/
theorem step_goes_on_iff {s t : State} (h : step s = .next t) :
    (t.result = some .cont ∨ t.result = some .awaitingKey) ↔ t.status = .running := by
  obtain ⟨r, hr, hstatus⟩ := stepResultTellsStatus s t h
  rw [hr, ← hstatus]
  cases r <;> simp [StepResult.statusAfter]

theorem runToCompletion_succ {s t : State} (fuel : Nat) (h : step s = .next t) :
    runToCompletion (fuel + 1) s = if t.status = .running then runToCompletion fuel t else some t := by
  rw [runToCompletion, h]
  exact if_congr (step_goes_on_iff h) rfl rfl

theorem run_one {s t : State} (h : step s = .next t) : Host.Core.run Sys2Proof.core 1 s = .next t := run_next 0 h

/-- Settles O58, by induction on the bound: where the first step leaves the machine running, the run is one step and the rest of it. -/
theorem runStopsAtFirstTerminalResult : Obligations.RunStopsAtFirstTerminalResult := by
  intro fuel
  induction fuel with
  | zero => exact fun s t => ⟨nofun, fun ⟨n, hn, _⟩ => absurd hn (Nat.not_lt_zero n)⟩
  | succ fuel ih =>
    intro s t
    obtain ⟨t₁, hstep, -⟩ := stepIsTotal s
    rw [runToCompletion_succ fuel hstep]
    split_ifs with hgoes
    · rw [ih]
      constructor
      · rintro ⟨n, hn, hrun, ht, hbefore⟩
        refine ⟨n + 1, by omega, by rw [run_next (n + 1) hstep, hrun], ht, fun m hm => ?_⟩
        cases m with
        | zero => exact ⟨t₁, run_one hstep, hgoes⟩
        | succ m => rw [run_next (m + 1) hstep]; exact hbefore m (by omega)
      · rintro ⟨n, hn, hrun, ht, hbefore⟩
        cases n with
        | zero =>
          cases (run_one hstep).symm.trans hrun
          exact absurd hgoes ht
        | succ n =>
          refine ⟨n, by omega, by rw [← run_next (n + 1) hstep, hrun], ht, fun m hm => ?_⟩
          rw [← run_next (m + 1) hstep]
          exact hbefore (m + 1) (by omega)
    · constructor
      · rintro ⟨⟩
        exact ⟨0, by omega, run_one hstep, hgoes, fun m hm => absurd hm (Nat.not_lt_zero m)⟩
      · rintro ⟨n, hn, hrun, ht, hbefore⟩
        cases n with
        | zero =>
          cases (run_one hstep).symm.trans hrun
          rfl
        | succ n =>
          obtain ⟨u, hu, hrunning⟩ := hbefore 0 (by omega)
          cases (run_one hstep).symm.trans hu
          exact absurd hrunning hgoes

end Sys2Proof.Machine
end

section
/-! PROOFS. The inputs of a step (40_step_cycle.md R102): what an instruction that reads none of them does with other inputs. -/

namespace Sys2Proof.Machine

/-- The state with other host arguments listed and another free value next. -/
def State.withInputs (s : State) (l : List StepInput) (n : Nat) : State := { s with inputs := l, freeIndex := n }

variable (s : State) (l : List StepInput) (n : Nat)

@[simp] theorem State.withInputs_cfg : (s.withInputs l n).cfg = s.cfg := rfl

/-! ### Memory and framebuffer do not look at the inputs -/

theorem State.readBlock_withInputs (a k : Nat) : (s.withInputs l n).readBlock a k = s.readBlock a k := by
  induction k generalizing a with
  | zero => rfl
  | succ k ih =>
    rw [State.readBlock, State.readBlock, ih]
    rfl

theorem State.memWrite_withInputs (a : Nat) (b : Byte) :
    (s.withInputs l n).memWrite a b = (s.memWrite a b).map fun t => t.withInputs l n := by
  rw [State.memWrite_eq, State.memWrite_eq, State.withInputs_cfg]
  by_cases h : Writable s.cfg a
  · rw [if_pos h, if_pos h]
    rfl
  · rw [if_neg h, if_neg h]
    rfl

theorem State.writeBlock_withInputs (a : Nat) (bs : List Byte) :
    (s.withInputs l n).writeBlock a bs = (s.writeBlock a bs).map fun t => t.withInputs l n := by
  induction bs generalizing s a with
  | nil => rfl
  | cons b bs ih =>
    rw [State.writeBlock, State.writeBlock, State.memWrite_withInputs]
    cases s.memWrite a b with
    | error r => rfl
    | ok t => exact ih t (a + 1)

theorem State.flipPixels_withInputs (ps : List (Nat × Nat)) :
    (s.withInputs l n).flipPixels ps = (s.flipPixels ps).withInputs l n := by
  induction ps generalizing s with
  | nil => rfl
  | cons p ps ih => exact ih (s.pixelFlip p.1 p.2)

theorem State.drawSprite_withInputs (x0 y0 : Nat) (rows : List Byte) :
    (s.withInputs l n).drawSprite x0 y0 rows = (s.drawSprite x0 y0 rows).withInputs l n := by
  rw [State.drawSprite, State.flipPixels_withInputs]
  rfl

theorem State.storeBlock_withInputs (bs : List Byte) :
    (s.withInputs l n).completeOr ((s.withInputs l n).advance.writeBlock (s.withInputs l n).base bs) =
      (s.completeOr (s.advance.writeBlock s.base bs)).withInputs l n := by
  have h := s.advance.writeBlock_withInputs l n s.base bs
  refine (congrArg _ h).trans ?_
  cases s.advance.writeBlock s.base bs <;> rfl

/-- A block read and then used by an operation that does not look at the inputs. -/
theorem State.readBlock_completeOr_withInputs {f : State → List Byte → State} (a k : Nat)
    (hf : ∀ bs, f (s.withInputs l n) bs = (f s bs).withInputs l n) :
    (s.withInputs l n).completeOr (((s.withInputs l n).readBlock a k).map (f (s.withInputs l n))) =
      (s.completeOr ((s.readBlock a k).map (f s))).withInputs l n := by
  rw [State.readBlock_withInputs]
  cases s.readBlock a k with
  | error r => rfl
  | ok bs => exact congrArg State.complete (hf bs)

/-! ### Every instruction but the four -/

variable {s} in
/-- An instruction that reads no input does the same with any inputs, and hands them on. -/
theorem exec_withInputs {i : Instr} {t : State} (hi : readsInput i = false) (h : exec i s = .next t) :
    exec i (s.withInputs l n) = .next (t.withInputs l n) := by
  cases i with
  | rnd | skp | sknp | ldVxK => cases hi
  | ret =>
    rcases execRet_cases s with ⟨hsp, hend⟩ | ⟨hsp, hend⟩ <;> cases hend.symm.trans h
    · exact ((execRet_cases (s.withInputs l n)).resolve_right fun ⟨hpos, _⟩ => hpos.ne' hsp).2
    · exact ((execRet_cases (s.withInputs l n)).resolve_left fun ⟨hzero, _⟩ => hsp.ne' hzero).elim fun _ hend => hend
  | call nnn =>
    rcases execCall_cases nnn s with ⟨hsp, hend⟩ | ⟨hsp, hend⟩ <;> cases hend.symm.trans h
    · exact ((execCall_cases nnn (s.withInputs l n)).resolve_right fun ⟨hroom, _⟩ => hroom.ne hsp).2
    · exact ((execCall_cases nnn (s.withInputs l n)).resolve_left fun ⟨hfull, _⟩ => hsp.ne hfull).elim fun _ hend => hend
  | addI x =>
    rcases execAddI_cases x s with ⟨hsum, hend⟩ | ⟨hsum, hend⟩ <;> cases hend.symm.trans h
    · exact if_pos hsum
    · exact if_neg (Nat.not_le.mpr hsum)
  | drw x y k =>
    cases h
    exact congrArg _ (s.readBlock_completeOr_withInputs l n
      (f := fun s rows => (s.drawSprite (s.getV x).toNat (s.getV y).toNat rows).advance) s.base k.toNat
      fun rows => congrArg State.advance (s.drawSprite_withInputs l n _ _ rows))
  | loadRegs x =>
    cases h
    exact congrArg _ (s.readBlock_completeOr_withInputs l n
      (f := fun s bs => (s.loadFirstRegs x bs).advance) s.base (x.toNat + 1) fun _ => rfl)
  | ldBcd | storeRegs =>
    cases h
    exact congrArg _ (s.storeBlock_withInputs l n _)
  | _ =>
    cases h
    rfl

/-- Settles O20: every instruction has a next state, and with other inputs the same one but for them. -/
theorem inputsReadByFourInstructionsOnly : Obligations.InputsReadByFourInstructionsOnly := by
  intro i s l n hi
  obtain ⟨t, h⟩ := exec_total i s
  rw [h]
  exact exec_withInputs l n hi h

end Sys2Proof.Machine
end

section
/-! PROOFS. Return and call (41_flow_and_skips.md), the flag writers (42_load_and_alu.md section 3), the random byte, FX1E and FX29
(43_index_and_memory.md section 2), keys and `tick_timers` (45_timers_and_keys.md, 60_exceptions.md R229). -/

namespace Sys2Proof.Machine

/-! ### Return and call -/

/-- Settles O32, by the two ends of 00EE. -/
theorem returnPopsOrHalts : Obligations.ReturnPopsOrHalts := by
  intro s
  rcases execRet_cases s with ⟨hzero, hend⟩ | ⟨hpos, hend⟩
  · exact ⟨fun k hk => absurd hk (by omega), fun _ => hend⟩
  · refine ⟨fun k hk => ⟨_, hend, rfl, ?_, ?_, fun _ => rfl, s.return_frame ..⟩, fun hzero => absurd hzero hpos.ne'⟩
    · simp [hk]
    · simp [hk]

/-- Settles O33: the call leaves `pc + 2` in the slot that the return at the depth after it reads. -/
theorem callThenReturnComesBack : Obligations.CallThenReturnComesBack := by
  intro nnn s t u h hc hstack hsp
  rcases execCall_cases nnn s with ⟨_, hend⟩ | ⟨hroom, hend⟩ <;> cases hend.symm.trans h
  · cases hc
  · obtain ⟨w, hret, hcont, hpc, hdepth, -⟩ := (returnPopsOrHalts u).1 ⟨s.sp.val, hroom⟩ (congrArg Fin.val hsp)
    refine ⟨w, hret, hcont, ?_, Fin.ext hdepth⟩
    rw [hpc, hstack]
    exact (stack_set_getElem s.stack s.sp.val hroom _ _).trans (if_pos rfl)

/-! ### The flag writers -/

theorem flagByte_toNat (p : Prop) [Decidable p] : (flagByte (decide p)).toNat = if p then 1 else 0 := by
  by_cases h : p <;> simp [h, flagByte]

/-- Every instruction that writes the flag first and the result second completes with the result in V[X], the flag in VF where X is not
15, the other registers kept, and `pc + 2`. `P` and `n` are what the instruction's rule says of the result and of the flag. -/
theorem exec_setFlagThen {i : Instr} {s : State} {f : Bool} {x : RegId} {b : Byte} {P : Byte → Prop} {n : Nat}
    (hexec : exec i s = .next (s.setFlagThen (flagByte f) x b).advance.complete) (hb : P b) (hf : (flagByte f).toNat = n) :
    ∃ t, exec i s = .next t ∧ t.result = some .cont ∧ t.pc = s.pc + 2#16 ∧ Frame { v := true } s t ∧
      P (t.getV x) ∧ (x ≠ 15#4 → (t.getV 15#4).toNat = n) ∧ ∀ z, z ≠ x → z ≠ 15#4 → t.getV z = s.getV z := by
  refine ⟨_, hexec, rfl, rfl, s.setFlagThen_advance_complete_frame .., ?_, fun hx => ?_, fun z hx hz => ?_⟩
  · simpa [State.setFlagThen_getV] using hb
  · simpa [State.setFlagThen_getV, hx.symm] using hf
  · simp [State.setFlagThen_getV, hx, hz]

/-- Settles O37: the sum of two bytes is the sum modulo 256, and the flag is the carry. -/
theorem addWithCarry : Obligations.AddWithCarry := fun x y s =>
  exec_setFlagThen (P := fun b => b.toNat = ((s.getV x).toNat + (s.getV y).toNat) % 256) rfl (BitVec.toNat_add ..)
    (flagByte_toNat _)

/-- The difference of two bytes is the difference of their values modulo 256. -/
theorem sub_toNat_emod (a b : Byte) : ((a - b).toNat : Int) = ((a.toNat : Int) - b.toNat) % 256 := by
  have ha := a.isLt
  have hb := b.isLt
  rw [BitVec.toNat_sub]
  omega

/-- Settles O38: both forms write the not-borrow and then the difference. -/
theorem subtractWithNotBorrow : Obligations.SubtractWithNotBorrow := fun x y s =>
  ⟨exec_setFlagThen (P := fun b => (b.toNat : Int) = ((s.getV x).toNat - (s.getV y).toNat : Int) % 256) rfl (sub_toNat_emod ..)
      (flagByte_toNat _),
    exec_setFlagThen (P := fun b => (b.toNat : Int) = ((s.getV y).toNat - (s.getV x).toNat : Int) % 256) rfl (sub_toNat_emod ..)
      (flagByte_toNat _)⟩

theorem shiftedOutRight_toNat (a : Byte) : (flagByte (shiftedOutRight a)).toNat = a.toNat % 2 := by
  rw [shiftedOutRight, BitVec.getLsbD, Nat.testBit_zero, flagByte_toNat]
  split_ifs <;> omega

theorem shiftedOutLeft_toNat (a : Byte) : (flagByte (shiftedOutLeft a)).toNat = a.toNat / 128 := by
  have ha := a.isLt
  rw [shiftedOutLeft, BitVec.getLsbD, Nat.testBit_eq_decide_div_mod_eq, flagByte_toNat]
  split_ifs <;> omega

theorem shiftLeft_one_toNat (a : Byte) : (a <<< 1).toNat = 2 * a.toNat % 256 := by
  rw [BitVec.toNat_shiftLeft, Nat.shiftLeft_eq, Nat.mul_comm]

/-- Settles O39: both forms write the bit shifted out and then the shifted byte. -/
theorem shiftsByOne : Obligations.ShiftsByOne := fun x _ s =>
  ⟨exec_setFlagThen (P := fun b => b.toNat = (s.getV x).toNat / 2) rfl (BitVec.toNat_ushiftRight ..) (shiftedOutRight_toNat _),
    exec_setFlagThen (P := fun b => b.toNat = 2 * (s.getV x).toNat % 256) rfl (shiftLeft_one_toNat _) (shiftedOutLeft_toNat _)⟩

/-! ### The random byte -/

theorem and_and_not_self (a nn : Byte) : a &&& nn &&& ~~~nn = 0#8 := by
  rw [BitVec.and_assoc, BitVec.and_not_self]
  exact BitVec.and_zero

/-- Settles O40: the byte written is the step's random byte masked by NN. -/
theorem randomByteIsMasked : Obligations.RandomByteIsMasked := by
  intro x nn s
  obtain ⟨t, hexec, hcont, hpc, hframe, hval, hkept⟩ := exec_setV (i := .rnd x nn) (s := s) (P := (· = s.rand &&& nn)) rfl rfl
  refine ⟨t, hexec, hcont, hpc, hframe, fun c l hin => ?_, fun hin => ?_, ?_, hkept⟩ <;> rw [hval]
  · rw [State.rand_cons hin]
  · rw [State.rand_nil hin]
  · exact and_and_not_self ..

/-! ### The address register -/

/-- Settles O42, by the two ends of FX1E. -/
theorem addToAddressRegister : Obligations.AddToAddressRegister := by
  intro x s
  rcases execAddI_cases x s with ⟨hover, hend⟩ | ⟨hfits, hend⟩
  · exact ⟨fun hfits => absurd hover (Nat.not_le.mpr hfits), fun _ => hend⟩
  · refine ⟨fun _ => ⟨_, hend, rfl, rfl, ?_, ?_, fun z hz => ?_, s.setI_setV_advance_complete_frame ..⟩,
      fun hover => absurd hover (Nat.not_le.mpr hfits)⟩
    · exact Nat.mod_eq_of_lt hfits
    · simpa [outsideMemory] using flagByte_toNat (s.i.toNat + (s.getV x).toNat ≥ s.cfg.memSize)
    · simp [hz]

/-- The glyph's address is at most 1275, so it fits `I` (43_index_and_memory.md R152). -/
theorem glyphAddress_toNat (b : Byte) : (glyphAddress b).toNat = 5 * b.toNat := by
  have hb := b.isLt
  exact Nat.mod_eq_of_lt (show 5 * b.toNat < 65536 by omega)

/-- Settles O43: FX29 writes the glyph's address to I. -/
theorem ldFont_glyphAddress : Obligations.GlyphAddress := fun x s =>
  ⟨_, rfl, rfl, rfl, glyphAddress_toNat (s.getV x), s.setI_advance_complete_frame _⟩

/-! ### Keys and timers -/

/-- Every instruction that ends in a skip completes with the skip's `pc` and nothing else changed, the condition decided. -/
theorem exec_skip_of {i : Instr} {s : State} {c : Bool} (hexec : exec i s = .next (s.skipIf c).complete) :
    ∃ t, exec i s = .next t ∧ t.result = some .cont ∧ t.pc = (if c = true then s.pc + 4#16 else s.pc + 2#16) ∧ Frame {} s t :=
  ⟨_, hexec, rfl, rfl, s.setPc_complete_frame _⟩

/-- Settles O54: `pressed` tells whether the host's next key map has the key down. -/
theorem keySkips : Obligations.KeySkips := by
  intro x s
  have hskp := exec_skip_of (i := .skp x) (s := s) rfl
  have hsknp := exec_skip_of (i := .sknp x) (s := s) rfl
  constructor
  · intro hdown
    rw [(s.pressed_keys _).mpr hdown] at hskp hsknp
    exact ⟨hskp, hsknp⟩
  · intro hup
    rw [Bool.eq_false_iff.mpr (mt (s.pressed_keys _).mp hup)] at hskp hsknp
    exact ⟨hskp, hsknp⟩

theorem State.keyDown_lt {s : State} {k : Nat} (h : s.keyDown k) : k < 16 := by
  obtain ⟨_, _, _, _, _, hk, _⟩ := h
  exact hk

/-- Settles O55: the key found is down and no lesser one is, so it is the least; where none is found none of the sixteen is down. -/
theorem keyWait : Obligations.KeyWait := by
  intro x s
  rcases execLdVxK_cases x s with ⟨hnone, hend⟩ | ⟨k', hsome, hend⟩
  · have hup : ∀ k, ¬s.keyDown k := fun k hdown => by
      have hreleased := leastPressed_none hnone k (State.keyDown_lt hdown)
      rw [(s.pressed_keys k).mpr hdown] at hreleased
      cases hreleased
    exact ⟨fun k hdown _ => absurd hdown (hup k), fun _ => hend⟩
  · obtain ⟨hlt, hpressed, hleast⟩ := leastPressed_some hsome
    have hdown' : s.keyDown k' := (s.pressed_keys k').mp hpressed
    refine ⟨fun k hdown hfirst => ?_, fun hup => absurd hdown' (hup k')⟩
    have hle : k ≤ k' := Nat.not_lt.mp fun hlt' => hfirst k' hlt' hdown'
    have hge : k' ≤ k := Nat.not_lt.mp fun hlt' => by
      have hreleased := hleast k hlt'
      rw [(s.pressed_keys k).mpr hdown] at hreleased
      cases hreleased
    have hkey : (BitVec.ofNat 8 k').toNat = k := by
      rw [BitVec.toNat_ofNat, Nat.mod_eq_of_lt (by omega)]
      omega
    obtain ⟨t, hexec, hcont, hpc, hframe, hval, hkept⟩ := exec_setV (P := fun b => b.toNat = k) (i := .ldVxK x) hend hkey
    exact ⟨t, hexec, hcont, hpc, hval, hkept, hframe⟩

/-- Settles O57: a tick is a count down of each timer. -/
theorem tickTimersCountsDown : Obligations.TickTimersCountsDown := fun s =>
  ⟨countDown_toNat s.delay, countDown_toNat s.sound, rfl, rfl,
    .of_eq (.inr rfl) (.inr rfl) (.inr ⟨rfl, rfl⟩) (.inl rfl) (.inl rfl) (.inr rfl) (.inr rfl) (.inr rfl) rfl rfl rfl⟩

end Sys2Proof.Machine
end

section
/-! PROOFS. The memory instructions (43_index_and_memory.md section 3): a block stored, a block loaded, and the fault of a block with a
forbidden address. -/

namespace Sys2Proof.Machine

/-! ### Stores -/

/-- Every instruction that stores a block at `I` completes where its addresses are writable: the bytes at their places, every other byte
kept, the draw flag set where the block reaches DISPLAY, and nothing else changed but `pc`. -/
theorem exec_store {i : Instr} {s : State} {bs : List Byte} (hexec : exec i s = .next (s.completeOr (s.advance.writeBlock s.base bs)))
    (hw : ∀ k, k < bs.length → Writable s.cfg (s.i.toNat + k)) :
    ∃ t, exec i s = .next t ∧ t.result = some .cont ∧ t.pc = s.pc + 2#16 ∧
      (∀ k (h : k < bs.length), t.byteAt (s.i.toNat + k) = bs[k]) ∧
      (∀ a, a < s.i.toNat ∨ s.i.toNat + bs.length ≤ a → t.byteAt a = s.byteAt a) ∧
      (t.drawFlag = true ↔ s.drawFlag = true ∨ ∃ k, k < bs.length ∧ s.cfg.memSize - 256 ≤ s.i.toNat + k) ∧
      Frame { memory := true, drawFlag := true } s t := by
  have hwrite : s.advance.writeBlock s.base bs = .ok _ := State.writeBlock_ok (s := s.advance) hw
  rw [hwrite, State.completeOr_ok] at hexec
  refine ⟨_, hexec, rfl, ?_, fun k hk => ?_, fun a ha => ?_, ?_, s.stored_frame ..⟩
  · simp
  · simp [State.setBytes_byteAt, State.base, hk]
  · simp only [State.complete_byteAt, State.setDrawFlag_byteAt, State.setBytes_byteAt, State.advance_byteAt, State.base]
    exact dif_neg (by omega)
  · simp [State.base]

/-- The first forbidden address of a stored block is the fault's reason, and the caller's state is kept (20_memory.md R57). -/
theorem exec_store_fault {i : Instr} {s : State} {bs : List Byte} {k : Nat}
    (hexec : exec i s = .next (s.completeOr (s.advance.writeBlock s.base bs))) (h : ∀ j, j < k → Writable s.cfg (s.i.toNat + j))
    (hbad : ¬Writable s.cfg (s.i.toNat + k)) (hk : k < bs.length) :
    exec i s = .next (s.raiseFault (writeReason s.cfg (s.i.toNat + k))) := by
  have hwrite : s.advance.writeBlock s.base bs = .error _ := State.writeBlock_error (s := s.advance) hk h hbad
  rw [hexec, hwrite]
  rfl

/-- The `n` bytes from `I` on. -/
def State.bytesAtI (s : State) (n : Nat) : List Byte := (List.range n).map fun k => s.byteAt (s.i.toNat + k)

@[simp] theorem State.bytesAtI_length (s : State) (n : Nat) : (s.bytesAtI n).length = n := by
  simp [State.bytesAtI]

@[simp] theorem State.bytesAtI_getElem (s : State) {n k : Nat} (h : k < (s.bytesAtI n).length) :
    (s.bytesAtI n)[k] = s.byteAt (s.i.toNat + k) := by
  simp [State.bytesAtI]

/-- Every instruction that reads a block at `I` completes where its addresses are readable, with its effect on those bytes. -/
theorem exec_read {i : Instr} {s : State} {f : List Byte → State} {n : Nat}
    (hexec : exec i s = .next (s.completeOr ((s.readBlock s.base n).map f))) (h : ∀ k, k < n → Readable s.cfg (s.i.toNat + k)) :
    exec i s = .next (f (s.bytesAtI n)).complete := by
  have hread : s.readBlock s.base n = .ok (s.bytesAtI n) := State.readBlock_ok h
  rw [hexec, hread]
  rfl

/-- The first forbidden address of a block read is the fault's reason. -/
theorem exec_read_fault {i : Instr} {s : State} {f : List Byte → State} {n k : Nat}
    (hexec : exec i s = .next (s.completeOr ((s.readBlock s.base n).map f))) (h : ∀ j, j < k → Readable s.cfg (s.i.toNat + j))
    (hbad : ¬Readable s.cfg (s.i.toNat + k)) (hk : k < n) :
    exec i s = .next (s.raiseFault (readReason s.cfg (s.i.toNat + k))) := by
  have hread : s.readBlock s.base n = .error _ := State.readBlock_error hk h hbad
  rw [hexec, hread]
  rfl

/-- Settles O47: FX33 stores three bytes, FX55 and FX65 move V[0] to V[X], DXYN reads N bytes. -/
theorem blockAccessIsAllOrNothing : Obligations.BlockAccessIsAllOrNothing := fun s _ =>
  ⟨fun x h hbad hk => exec_store_fault (bs := decimalDigits (s.getV x)) rfl h hbad hk,
    fun x h hbad hk => exec_store_fault (bs := s.firstRegs x) rfl h hbad (by rw [State.firstRegs_length]; omega),
    fun x h hbad hk => exec_read_fault (n := x.toNat + 1) (f := fun bs => (s.loadFirstRegs x bs).advance) rfl h hbad (by omega),
    fun x y _ h hbad hk =>
      exec_read_fault (f := fun rows => (s.drawSprite (s.getV x).toNat (s.getV y).toNat rows).advance) rfl h hbad hk,
    fun _ => rfl⟩

/-- Settles O44: the block FX33 stores is the three digits, each of which fits a byte. -/
theorem bcdStoresDigits : Obligations.BcdStoresDigits := by
  intro x s hw
  have hv := (s.getV x).isLt
  obtain ⟨t, hexec, hcont, hpc, hbytes, hkept, hflag, hframe⟩ := exec_store (i := .ldBcd x) (bs := decimalDigits (s.getV x)) rfl hw
  refine ⟨t, hexec, hcont, hpc, ?_, ?_, ?_, hkept, hflag, hframe⟩
  · exact (congrArg BitVec.toNat (hbytes 0 (Nat.le_add_left 1 2))).trans (Nat.mod_eq_of_lt (by omega))
  · exact (congrArg BitVec.toNat (hbytes 1 (Nat.le_add_left 2 1))).trans (Nat.mod_eq_of_lt (by omega))
  · exact (congrArg BitVec.toNat (hbytes 2 (Nat.le_refl 3))).trans (Nat.mod_eq_of_lt (by omega))

/-- Settles O45: the block FX55 stores is V[0] to V[X]. -/
theorem storeRegisterBlock : Obligations.StoreRegisterBlock := by
  intro x s hw
  obtain ⟨t, hexec, hcont, hpc, hbytes, hkept, hflag, hframe⟩ := exec_store (i := .storeRegs x) (bs := s.firstRegs x) rfl
    fun k hk => hw k (by rw [State.firstRegs_length] at hk; omega)
  simp only [State.firstRegs_length, State.firstRegs_getElem, Nat.lt_succ_iff] at hbytes hkept hflag
  refine ⟨t, hexec, hcont, hpc, fun z hz => ?_, fun a ha => hkept a (ha.imp_right Nat.succ_le_of_lt), hflag, hframe⟩
  rw [hbytes z.toNat hz, ofNat_toNat_reg]

/-- Settles O23: the stored block is in memory at once, its addresses can be fetched from, and the next `pc` lies in it. -/
theorem storedBytesAreFetchedNext : Obligations.StoredBytesAreFetchedNext := by
  intro x s t k h hc hk hpc heven
  have hw : ∀ k, k < (s.firstRegs x).length → Writable s.cfg (s.i.toNat + k) := by
    rcases s.storeBlock_cases (s.firstRegs x) with ⟨hw, -⟩ | ⟨r, hend, -⟩
    · exact hw
    · cases h.symm.trans (congrArg Host.Outcome.next hend)
      cases hc
  obtain ⟨t', hexec, -, -, hbytes, -, -, hframe⟩ := exec_store (i := .storeRegs x) (bs := s.firstRegs x) rfl hw
  cases hexec.symm.trans h
  rw [State.firstRegs_length] at hw
  have hread : ∀ j, j ≤ k + 1 → Readable t.cfg (s.i.toNat + j) := fun j hj => by
    rw [hframe.cfg]
    exact (hw j (by omega)).1
  have hbyte : ∀ j, j ≤ k + 1 → t.byteAt (s.i.toNat + j) = s.getV (BitVec.ofNat 4 j) := fun j hj => by
    rw [hbytes j (by rw [State.firstRegs_length]; omega), State.firstRegs_getElem]
  have hfirst : Readable t.cfg t.pc.toNat := hpc ▸ hread k (by omega)
  have hsecond : Readable t.cfg (t.pc.toNat + 1) := hpc ▸ hread (k + 1) (by omega)
  rw [State.fetch_of_readable hfirst hsecond heven, hpc, Nat.add_assoc, hbyte k (by omega), hbyte (k + 1) (by omega)]

/-! ### The load -/

/-- Settles O46: the block FX65 loads is the bytes at `I`, and only V[0] to V[X] are written. -/
theorem loadRegisterBlock : Obligations.LoadRegisterBlock := by
  intro x s hr
  have hexec := exec_read (i := .loadRegs x) (f := fun bs => (s.loadFirstRegs x bs).advance) rfl
    fun k hk => hr k (Nat.lt_succ_iff.mp hk)
  refine ⟨_, hexec, State.complete_result _, by simp, fun z => ?_, s.loadFirstRegs_advance_complete_frame ..⟩
  rw [State.complete_getV, State.advance_getV, State.loadFirstRegs_getV]
  split_ifs with hz
  · rw [List.getD_eq_getElem _ _ (by rw [State.bytesAtI_length]; omega), State.bytesAtI_getElem]
  · rfl

end Sys2Proof.Machine
end

section
/-! PROOFS. The sprite draw (44_display.md): which pixels flip, what VF tells, and the same sprite drawn twice. -/

namespace Sys2Proof.Machine

/-! ### The pixels a sprite covers -/

/-- On the screen, the pixels of the sprite's rows are those the sprite covers. -/
theorem State.mem_spritePixels_iff (s : State) {x0 y0 n col row : Nat} (hcol : col < 64) (hrow : row < 32) :
    (col, row) ∈ spritePixels x0 y0 (s.bytesAtI n) ↔ s.spriteCovers x0 y0 n col row := by
  rw [mem_spritePixels]
  constructor
  · rintro ⟨-, -, hx, hx', hy, hlen, hbit⟩
    simp only [State.bytesAtI_length, State.bytesAtI_getElem] at hlen hbit
    exact ⟨hx, hx', hy, by omega, hbit⟩
  · rintro ⟨hx, hx', hy, hy', hbit⟩
    refine ⟨hcol, hrow, hx, hx', hy, ?_⟩
    simp only [State.bytesAtI_length, State.bytesAtI_getElem]
    exact ⟨by omega, hbit⟩

/-- A pixel of the screen changes exactly where the sprite covers it. -/
theorem State.drawSprite_isPixelSet_ne_iff (s : State) {x0 y0 n col row : Nat} (hcol : col < 64) (hrow : row < 32) :
    (s.drawSprite x0 y0 (s.bytesAtI n)).isPixelSet col row ≠ s.isPixelSet col row ↔ s.spriteCovers x0 y0 n col row := by
  rw [← s.mem_spritePixels_iff hcol hrow, State.isPixelSet, State.isPixelSet, State.drawSprite_pixelGet _ _ _ _ hcol]
  split_ifs with hmem <;> simp [hmem]

/-! ### The collision flag -/

theorem flagByte_toNat_eq_zero_or_one (b : Bool) : (flagByte b).toNat = 0 ∨ (flagByte b).toNat = 1 := by
  cases b
  · exact .inl rfl
  · exact .inr rfl

theorem flagByte_toNat_eq_one_iff {b : Bool} : (flagByte b).toNat = 1 ↔ b = true := by
  cases b <;> decide

/-- A sprite collides exactly where drawing it turns some pixel of the screen off. -/
theorem State.collides_iff (s : State) (x0 y0 : Nat) (rows : List Byte) :
    s.collides (spritePixels x0 y0 rows) = true ↔
      ∃ col row, col < 64 ∧ row < 32 ∧ s.isPixelSet col row = true ∧ (s.drawSprite x0 y0 rows).isPixelSet col row = false := by
  simp only [State.collides, State.isPixelSet, List.any_eq_true]
  constructor
  · rintro ⟨⟨col, row⟩, hmem, hon⟩
    obtain ⟨hcol, hrow⟩ := spritePixels_onScreen x0 y0 rows _ hmem
    refine ⟨col, row, hcol, hrow, hon, ?_⟩
    rw [State.drawSprite_pixelGet _ _ _ _ hcol, if_pos hmem, hon]
    rfl
  · rintro ⟨col, row, hcol, hrow, hon, hoff⟩
    refine ⟨(col, row), ?_, hon⟩
    by_contra hmem
    rw [State.drawSprite_pixelGet _ _ _ _ hcol, if_neg hmem, hon] at hoff
    cases hoff

/-! ### The statements -/

/-- Settles O50: with its rows readable DXYN draws the sprite, whose flips are the pixels it covers. -/
theorem drawFlipsCoveredPixels : Obligations.DrawFlipsCoveredPixels := by
  intro x y n s hlegal hr
  have hexec := exec_read (i := .drw x y n) (f := fun rows => (s.drawSprite (s.getV x).toNat (s.getV y).toNat rows).advance) rfl hr
  refine ⟨_, hexec, rfl, ?_, rfl, fun col row hcol hrow => s.drawSprite_isPixelSet_ne_iff hcol hrow, ?_, ?_, fun z hz => ?_,
    fun a ha => ?_, s.drawSprite_advance_complete_frame ..⟩
  · simp
  · simpa [State.drawSprite_getV] using flagByte_toNat_eq_zero_or_one _
  · simp only [State.complete_getV, State.advance_getV, State.drawSprite_getV, if_true]
    rw [flagByte_toNat_eq_one_iff, State.collides_iff]
    rfl
  · simp [State.drawSprite_getV, hz]
  · refine s.drawSprite_byteAt _ _ _ ?_
    rw [Config.displayStart_eq]
    exact ha.imp_right fun h => by have := hlegal.1; omega

/-- Each framebuffer bit is a pixel of the screen, so equal pixels are equal bytes (20_memory.md R49). -/
theorem byteAt_eq_of_isPixelSet {s t : State} (hlegal : s.cfg.Legal) (hcfg : t.cfg = s.cfg)
    (h : ∀ col row, col < 64 → row < 32 → t.isPixelSet col row = s.isPixelSet col row) {a : Nat} (hlo : s.cfg.memSize - 256 ≤ a)
    (hhi : a < s.cfg.memSize) : t.byteAt a = s.byteAt a := by
  have hmin := hlegal.1
  refine BitVec.eq_of_getLsbD_eq fun j hj => ?_
  have hpixel := h ((a - (s.cfg.memSize - 256)) % 8 * 8 + (7 - j)) ((a - (s.cfg.memSize - 256)) / 8) (by omega) (by omega)
  rw [State.isPixelSet, State.isPixelSet, State.pixelGet_eq, State.pixelGet_eq, hcfg] at hpixel
  have haddr : s.cfg.memSize - 256 + (a - (s.cfg.memSize - 256)) / 8 * 8 + ((a - (s.cfg.memSize - 256)) % 8 * 8 + (7 - j)) / 8 = a := by
    omega
  have hbit : 7 - ((a - (s.cfg.memSize - 256)) % 8 * 8 + (7 - j)) % 8 = j := by omega
  rwa [haddr, hbit] at hpixel

/-- A sprite whose bytes and place in memory are kept covers the same pixels. -/
theorem spriteCovers_congr {s t : State} {x0 y0 n : Nat} (hi : t.i = s.i)
    (hbytes : ∀ k, k < n → t.byteAt (s.i.toNat + k) = s.byteAt (s.i.toNat + k)) (col row : Nat) :
    t.spriteCovers x0 y0 n col row ↔ s.spriteCovers x0 y0 n col row := by
  simp only [State.spriteCovers, State.spriteBit, hi]
  refine and_congr_right fun _ => and_congr_right fun _ => and_congr_right fun hy => and_congr_right fun hy' => ?_
  rw [hbytes (row - y0) (by omega)]

/-- Settles O51: both draws flip the same pixels, so every pixel, and with it every byte, is as before; a pixel the second draw turns off is
one the first turned on. -/
theorem drawTwiceRestoresScreen : Obligations.DrawTwiceRestoresScreen := by
  intro x y n s t u hlegal hx hy hsprite h h'
  obtain ⟨_, hexec, -, -, -, hflip, -, -, hkept, hout, hframe⟩ := drawFlipsCoveredPixels x y n s hlegal fun k hk => (hsprite k hk).1
  cases hexec.symm.trans h
  have hcfg := hframe.cfg
  have hi : t.i = s.i := hframe.i rfl
  obtain ⟨_, hexec', -, -, -, hflip', -, hcollide, -, hout', hframe'⟩ :=
    drawFlipsCoveredPixels x y n t (by rwa [hcfg]) fun k hk => by rw [hcfg, hi]; exact (hsprite k hk).1
  cases hexec'.symm.trans h'
  rw [hkept x hx, hkept y hy] at hflip'
  rw [hcfg] at hout'
  have hsame : ∀ a b c : Bool, (b ≠ a ↔ c ≠ b) → c = a := by decide
  have hpixels : ∀ col row, col < 64 → row < 32 → u.isPixelSet col row = s.isPixelSet col row := fun col row hcol hrow => by
    refine hsame _ (t.isPixelSet col row) _ ?_
    rw [hflip col row hcol hrow, hflip' col row hcol hrow]
    exact (spriteCovers_congr hi (fun k hk => hout _ (.inl (hsprite k hk).2)) col row).symm
  constructor
  · intro a
    by_cases ha : a < s.cfg.memSize - 256 ∨ s.cfg.memSize ≤ a
    · rw [hout' a ha, hout a ha]
    · exact byteAt_eq_of_isPixelSet hlegal (hframe'.cfg.trans hcfg) hpixels (by omega) (by omega)
  · rw [hcollide]
    constructor
    · rintro ⟨col, row, hcol, hrow, hon, hoff⟩
      exact ⟨col, row, hcol, hrow, by rw [← hpixels col row hcol hrow, hoff], hon⟩
    · rintro ⟨col, row, hcol, hrow, hoff, hon⟩
      exact ⟨col, row, hcol, hrow, hon, by rw [hpixels col row hcol hrow, hoff]⟩

end Sys2Proof.Machine
end
